-- ==== Sys2Proof/Word.lean ====
section
/-! DEFINITION. The widths of the AUS1 block: every value is an unsigned integer of a stated width
(00_scope.md R11), a Boolean, a byte string or a named enumeration. -/

namespace Sys2Proof

/-- A byte: 8 bits, the smallest unit any rule moves (00_scope.md R10). -/
abbrev Byte := BitVec 8

/-- A 16-bit field: `peripheral_version`, `data_size`, `P.out_len`, `P.send_cursor`. -/
abbrev Word16 := BitVec 16

/-- A 17-bit counter: `C.capacity`, `C.data_loc`, `C.req_mark`, the physical size of `Complete`
(42_stream_receiver.md R172). -/
abbrev Word17 := BitVec 17

/-- A 32-bit value: a clock sample, a time stamp, `C.timeout_period`, `peripheral_type`. -/
abbrev Word32 := BitVec 32

/-- The opaque handle of a completion callback; the block hands it back and never inspects it
(10_state.md R24). -/
abbrev Handle := Nat

end Sys2Proof
end

