-- ==== Sys2Proof/Config.lean ====
section
/-! DEFINITION. The parameters of the block (00_scope.md R8): the named constants with the source's
values, the open static parameters, and the two values the spec leaves free. -/

namespace Sys2Proof

/-- `CKSUM_WIDTH` (W): the two header variants, 4 bytes "for a CRC32 variant" and 16 bytes "for an
MD5 variant" (00_scope.md R2). -/
inductive CksumWidth where
  | w4
  | w16
  deriving DecidableEq, Repr

/-- W as a number of bytes (00_scope.md R2). -/
def CksumWidth.bytes : CksumWidth → Nat
  | .w4 => 4
  | .w16 => 16

/-- The two buffer spaces of 00_scope.md R13: the controller's receive buffer and the peripheral's
pending-outbound buffer. -/
inductive BufSpace where
  | rxbuf
  | outbuf
  deriving DecidableEq, Repr

/-- The static parameters the spec leaves OPEN and a model takes as arguments (00_scope.md R8, R34;
decisions D2, D6, D10). One record serves both agents: `CKSUM_WIDTH` "must equal the controller's"
(10_state.md R46). No operation writes it. -/
structure Params where
  /-- `CKSUM_WIDTH`, equal on both sides. -/
  cksumWidth : CksumWidth
  /-- `PERIPH_ADDR`; its value and width are in no source (20_memory.md R73), so it is a plain
  number that the block passes on unchanged. -/
  periphAddr : Nat
  /-- `TIMEOUT_DEFAULT_MS`, the value of `C.timeout_period` after construction. -/
  timeoutDefaultMs : Word32
  deriving DecidableEq, Repr

namespace Config

/-- `TAG_PING` (R8). -/
def tagPing : Byte := 0xA0#8
/-- `TAG_PING_RESPONSE` (R8). -/
def tagPingResponse : Byte := 0xA1#8
/-- `TAG_START_OF_STREAM` (R8). -/
def tagStartOfStream : Byte := 0xA2#8
/-- `PING_SIZE` (R8). -/
def pingSize : Nat := 1
/-- `PING_RESPONSE_SIZE` (R8). -/
def pingResponseSize : Nat := 7
/-- `SOS_SIZE` = 3 + W (R8). -/
def sosSize (w : CksumWidth) : Nat := 3 + w.bytes
/-- `CHUNK_SIZE` (R8). -/
def chunkSize : Nat := 32
/-- `HEARTBEAT_MS`, default 20 (R8). -/
def heartbeatMs : Word32 := 20#32
/-- `NOISE_WINDOW_MS`, default 10 (R8). -/
def noiseWindowMs : Word32 := 10#32
/-- `MAX_DATA_SIZE` (R8). -/
def maxDataSize : Nat := 65535
/-- `MAX_PADDED_SIZE` (R8). -/
def maxPaddedSize : Nat := 65536

/-- `Cksum`, the external checksum primitive (R8, decision D3; 60_exceptions.md R258): pure and
total, from a byte string to W bytes, and otherwise unknown. A FREE VALUE (assumption 2). -/
opaque cksumPrimitive (w : CksumWidth) (bytes : List Byte) : Vector Byte w.bytes

/-- `Cksum` as a byte string of W bytes in wire order (30_encoding.md R96). -/
def cksum (w : CksumWidth) (bytes : List Byte) : List Byte :=
  (cksumPrimitive w bytes).toList

/-- What a byte of a buffer holds between the reset of the buffer and the storing of that byte:
any value (10_state.md R31; 93_implementation_defined.md U5). `epoch` counts the resets of the
space, so two buffers never share their unspecified contents. A FREE VALUE (assumption 3). -/
opaque unspecifiedByte (space : BufSpace) (epoch offset : Nat) : Byte

end Config

end Sys2Proof
end

