-- ==== Sys2Proof/Syntax.lean ====
section
/-! DEFINITION. The operations and wire packets of the opcode table (30_encoding.md R102, R103),
the steps of the reference bus, and the items of a trace (R104). -/

namespace Sys2Proof

/-- The three classes of transport status (20_memory.md R68). -/
inductive Status where
  | ok
  | timeout
  | fail
  deriving DecidableEq, Repr

/-- The wire formats (30_encoding.md R90 to R94). The receiver knows which one it expects
(R97), so a format is an argument of the decoder and never read from the bytes. -/
inductive Format where
  | ping
  | pingResp
  | sos4
  | sos16
  | data
  deriving DecidableEq, Repr

/-- One constructor per row of the opcode table, in the table's order. The first five are the wire
packets; the others are operations, which have no bit encoding in any source (R102). -/
inductive Instr where
  /-- A Ping packet (R91). -/
  | ping
  /-- A PingResponse packet (R92). -/
  | pingResp (peripheralType : Word32) (peripheralVersion : Word16)
  /-- A StartOfStream packet with a 4-byte checksum (R93). -/
  | sos4 (dataSize : Word16) (streamChecksum : List Byte)
  /-- A StartOfStream packet with a 16-byte checksum (R93). -/
  | sos16 (dataSize : Word16) (streamChecksum : List Byte)
  /-- One byte of the payload stream (R94). -/
  | data (d : Byte)
  /-- `ENCODE_PING` (R112). -/
  | encodePing
  /-- `DECODE_PING` (R113). -/
  | decodePing (buf : List Byte)
  /-- `ENCODE_PING_RESPONSE` (R114). -/
  | encodePingResponse (t : Word32) (v : Word16)
  /-- `DECODE_PING_RESPONSE` (R115). -/
  | decodePingResponse (buf : List Byte)
  /-- `ENCODE_START_OF_STREAM` (R116). -/
  | encodeStartOfStream (d : Word16) (ck : List Byte)
  /-- `DECODE_START_OF_STREAM` (R117). -/
  | decodeStartOfStream (buf : List Byte)
  /-- `C.UPDATE` (R130): the clock sample, the bytes that arrive with the poll, the status the
  transport returns if the poll writes a Ping. -/
  | cUpdate (now : Word32) (rx : List Byte) (st : Status)
  /-- `C.NEW` (R210). -/
  | cNew
  /-- `C.REQUEST_DATA` (R211). -/
  | cRequestData (cb : Handle)
  /-- `C.SET_TIMEOUT_PERIOD` (R212). -/
  | cSetTimeoutPeriod (duration : Word32)
  /-- `C.CONNECTED` (R213). -/
  | cConnected
  /-- `C.GET_STATE` (R214). -/
  | cGetState
  /-- `C.DEVICE_TYPE` (R216). -/
  | cDeviceType
  /-- `C.DEVICE_VERSION` (R216). -/
  | cDeviceVersion
  /-- `P.NEW` (R219); the data provider is no operand, since its result is an input of
  `P.ON_REQUEST` (R52, R220). -/
  | pNew (peripheralType : Word32) (peripheralVersion : Word16)
  /-- `P.UPDATE` (R193): the bytes that arrive with the poll. -/
  | pUpdate (rx : List Byte)
  /-- `P.ON_REQUEST` (R191): what the data provider returns if it is called. -/
  | pOnRequest (bytes : List Byte) (length : Nat)
  deriving DecidableEq, Repr

/-- The steps the reference bus takes on its own (20_memory.md R82, R84, R86, R87). -/
inductive BusStep where
  /-- DELIVER_C2P (R82). -/
  | deliverC2P
  /-- DELIVER_P2C (R84). -/
  | deliverP2C
  /-- FIRE_REQUEST (R86), with what the data provider returns if the event calls it. -/
  | fireRequest (bytes : List Byte) (length : Nat)
  /-- FILL (R87), with the byte the bus draws. -/
  | fill (b : Byte)
  deriving DecidableEq, Repr

/-- One item of a trace (30_encoding.md R104): a packet that the transport brings as raw bytes to
the receiver that expects this format, an operation with its inputs, or a step of the bus. -/
inductive Stimulus where
  | wire (f : Format) (bytes : List Byte)
  | op (i : Instr)
  | bus (b : BusStep)
  deriving DecidableEq, Repr

end Sys2Proof
end

