-- ==== Sys2Proof/WellFormed.lean ====
section
/-! DEFINITION. The operands the spec defines each operation on: a packet or a codec buffer has
exactly the fixed size of its kind (40_packet_codec.md R120), a checksum is W bytes for a W the
spec allows, and the data provider returns at most 65535 bytes and at least `length` of them
(43_peripheral.md R191). -/

namespace Sys2Proof

/-- A checksum length that some variant has (00_scope.md R2). -/
def isCksumLength (n : Nat) : Bool :=
  n == CksumWidth.w4.bytes || n == CksumWidth.w16.bytes

/-- A StartOfStream length that some variant has (30_encoding.md R93). -/
def isSosLength (n : Nat) : Bool :=
  n == Config.sosSize .w4 || n == Config.sosSize .w16

/-- The domain of a data provider's result (43_peripheral.md R191; 93 U6). -/
def providerInDomain (bytes : List Byte) (length : Nat) : Bool :=
  decide (length ≤ Config.maxDataSize) && decide (length ≤ bytes.length)

/-- Whether an operation's operands lie in the domain the spec defines it on. -/
def Instr.wellFormed : Instr → Bool
  | .ping => true
  | .pingResp _ _ => true
  | .sos4 _ ck => ck.length == CksumWidth.w4.bytes
  | .sos16 _ ck => ck.length == CksumWidth.w16.bytes
  | .data _ => true
  | .encodePing => true
  | .decodePing buf => buf.length == Config.pingSize
  | .encodePingResponse _ _ => true
  | .decodePingResponse buf => buf.length == Config.pingResponseSize
  | .encodeStartOfStream _ ck => isCksumLength ck.length
  | .decodeStartOfStream buf => isSosLength buf.length
  | .cUpdate _ _ _ => true
  | .cNew => true
  | .cRequestData _ => true
  | .cSetTimeoutPeriod _ => true
  | .cConnected => true
  | .cGetState => true
  | .cDeviceType => true
  | .cDeviceVersion => true
  | .pNew _ _ => true
  | .pUpdate _ => true
  | .pOnRequest bytes length => providerInDomain bytes length

end Sys2Proof
end

