-- ==== Sys2Proof/Decode.lean ====
section
/-! DEFINITION. The packet codec (40_packet_codec.md) and, over it, the decoder and the encoder of
the wire formats. A decoder of this block takes the expected kind and the bytes (30_encoding.md
R97): the tag is checked against that one kind and never dispatched on. -/

namespace Sys2Proof

/-- Byte `i` of a byte string; 0 past its end, which no caller reads. -/
def byteAt (s : List Byte) (i : Nat) : Byte := s.getD i 0#8

/-- `be16(s, i) = s[i] * 256 + s[i+1]` (30_encoding.md R95). -/
def be16 (s : List Byte) (i : Nat) : Word16 :=
  byteAt s i ++ byteAt s (i + 1)

/-- `be32(s, i)`, most significant byte at offset `i` (R95). -/
def be32 (s : List Byte) (i : Nat) : Word32 :=
  be16 s i ++ be16 s (i + 2)

/-- `put16(v)`: bits 15:8, then bits 7:0 (R95). -/
def put16 (v : Word16) : List Byte :=
  [v.extractLsb' 8 8, v.extractLsb' 0 8]

/-- `put32(v)`: bits 31:24 first (R95). -/
def put32 (v : Word32) : List Byte :=
  [v.extractLsb' 24 8, v.extractLsb' 16 8, v.extractLsb' 8 8, v.extractLsb' 0 8]

/-- `s[i .. j-1]` written with a length: `n` bytes from offset `i` (00_scope.md R11). -/
def slice (s : List Byte) (i n : Nat) : List Byte := (s.drop i).take n

/-- A decoded Ping (40_packet_codec.md R111). -/
structure PingRecord where
  valid : Bool
  deriving DecidableEq, Repr

/-- A decoded PingResponse (R111). -/
structure PingResponseRecord where
  valid : Bool
  peripheralType : Word32
  peripheralVersion : Word16
  deriving DecidableEq, Repr

/-- A decoded StartOfStream (R111). -/
structure StartOfStreamRecord where
  valid : Bool
  dataSize : Word16
  streamChecksum : List Byte
  deriving DecidableEq, Repr

/-- `ENCODE_PING` (R112). -/
def encodePing : List Byte := [Config.tagPing]

/-- `DECODE_PING` (R113). -/
def decodePing (buf : List Byte) : PingRecord :=
  { valid := decide (byteAt buf 0 = Config.tagPing) }

/-- `ENCODE_PING_RESPONSE` (R114). -/
def encodePingResponse (t : Word32) (v : Word16) : List Byte :=
  [Config.tagPingResponse] ++ put32 t ++ put16 v

/-- `DECODE_PING_RESPONSE` (R115): the sentinel on a wrong tag, whose payload is not looked at. -/
def decodePingResponse (buf : List Byte) : PingResponseRecord :=
  if byteAt buf 0 = Config.tagPingResponse then
    { valid := true, peripheralType := be32 buf 1, peripheralVersion := be16 buf 5 }
  else
    { valid := false, peripheralType := 0#32, peripheralVersion := 0#16 }

/-- `ENCODE_START_OF_STREAM` (R116). -/
def encodeStartOfStream (d : Word16) (ck : List Byte) : List Byte :=
  [Config.tagStartOfStream] ++ put16 d ++ ck

/-- `DECODE_START_OF_STREAM` (R117) for the variant `w`. -/
def decodeStartOfStream (w : CksumWidth) (buf : List Byte) : StartOfStreamRecord :=
  if byteAt buf 0 = Config.tagStartOfStream then
    { valid := true, dataSize := be16 buf 1, streamChecksum := slice buf 3 w.bytes }
  else
    { valid := false, dataSize := 0#16, streamChecksum := List.replicate w.bytes 0#8 }

/-- The fixed size of a format in bytes (30_encoding.md R90). -/
def formatSize : Format → Nat
  | .ping => Config.pingSize
  | .pingResp => Config.pingResponseSize
  | .sos4 => Config.sosSize .w4
  | .sos16 => Config.sosSize .w16
  | .data => 1

/-- Why the decoder rejects a byte string. -/
inductive DecodeError where
  /-- The byte string has not exactly the fixed size of the expected format (R120). -/
  | wrongLength (f : Format) (got : Nat)
  /-- The leading byte is not the tag of the expected format (R99). -/
  | wrongTag (f : Format) (got : Byte)
  deriving DecidableEq, Repr

/-- The packet a byte string of the right size is, if its tag is the expected one. -/
def decodePacket (f : Format) (bytes : List Byte) : Option Instr :=
  match f with
  | .ping => if (decodePing bytes).valid then some .ping else none
  | .pingResp =>
    let r := decodePingResponse bytes
    if r.valid then some (.pingResp r.peripheralType r.peripheralVersion) else none
  | .sos4 =>
    let r := decodeStartOfStream .w4 bytes
    if r.valid then some (.sos4 r.dataSize r.streamChecksum) else none
  | .sos16 =>
    let r := decodeStartOfStream .w16 bytes
    if r.valid then some (.sos16 r.dataSize r.streamChecksum) else none
  | .data => some (.data (byteAt bytes 0))

/-- The decoder, total on any bytes: the expected format and the bytes give the packet, or a
rejection by name. -/
def decode (f : Format) (bytes : List Byte) : Except DecodeError Instr :=
  if bytes.length = formatSize f then
    match decodePacket f bytes with
    | some i => .ok i
    | none => .error (.wrongTag f (byteAt bytes 0))
  else
    .error (.wrongLength f bytes.length)

/-- The wire format of an instruction; none for an operation, which has no encoding (R102). -/
def formatOf : Instr → Option Format
  | .ping => some .ping
  | .pingResp _ _ => some .pingResp
  | .sos4 _ _ => some .sos4
  | .sos16 _ _ => some .sos16
  | .data _ => some .data
  | .encodePing => none
  | .decodePing _ => none
  | .encodePingResponse _ _ => none
  | .decodePingResponse _ => none
  | .encodeStartOfStream _ _ => none
  | .decodeStartOfStream _ => none
  | .cUpdate _ _ _ => none
  | .cNew => none
  | .cRequestData _ => none
  | .cSetTimeoutPeriod _ => none
  | .cConnected => none
  | .cGetState => none
  | .cDeviceType => none
  | .cDeviceVersion => none
  | .pNew _ _ => none
  | .pUpdate _ => none
  | .pOnRequest _ _ => none

/-- The bytes of a packet in wire order (R90 to R94); none for an operation (R102). -/
def encode : Instr → Option (List Byte)
  | .ping => some encodePing
  | .pingResp t v => some (encodePingResponse t v)
  | .sos4 d ck => some (encodeStartOfStream d ck)
  | .sos16 d ck => some (encodeStartOfStream d ck)
  | .data d => some [d]
  | .encodePing => none
  | .decodePing _ => none
  | .encodePingResponse _ _ => none
  | .decodePingResponse _ => none
  | .encodeStartOfStream _ _ => none
  | .decodeStartOfStream _ => none
  | .cUpdate _ _ _ => none
  | .cNew => none
  | .cRequestData _ => none
  | .cSetTimeoutPeriod _ => none
  | .cConnected => none
  | .cGetState => none
  | .cDeviceType => none
  | .cDeviceVersion => none
  | .pNew _ _ => none
  | .pUpdate _ => none
  | .pOnRequest _ _ => none

/-- The `n` bytes of a packet that the opcode table writes as ONE number with byte 0 the most
significant (00_scope.md R10, 30_encoding.md R102). -/
def wordBytes : Nat → Nat → List Byte
  | 0, _ => []
  | n + 1, w => BitVec.ofNat 8 (w / 256 ^ n) :: wordBytes n w

/-- The format of a table word: PINGRESP and SOS4 have one length and are told apart by the tag
(R98), and a lone byte is a Ping if it is the Ping's tag, else a DATA byte (assumption 7). -/
def tableFormat (nbits w : Nat) : Format :=
  let tag := byteAt (wordBytes (nbits / 8) w) 0
  if nbits = 8 then
    if tag = Config.tagPing then .ping else .data
  else if nbits = 152 then .sos16
  else if tag = Config.tagStartOfStream then .sos4
  else .pingResp

/-- The instruction the decoder reads from a table word of `nbits` bits. -/
def decodeTableWord (nbits w : Nat) : Option Instr :=
  (decode (tableFormat nbits w) (wordBytes (nbits / 8) w)).toOption

end Sys2Proof
end

