-- ==== Sys2Proof/Machine/State.lean ====
section
/-! DEFINITION. The architectural state of the controller, the peripheral and the reference bus
(10_state.md, 20_memory.md R80), the reasons a step can stop, and the state after reset. -/

namespace Sys2Proof.Machine

/-- `C.state` (10_state.md R21). -/
inductive CtrlState where
  | idle
  | awaitingPingResponse
  | awaitingStartOfStream
  | receivingData
  deriving DecidableEq, Repr

/-- `P.state` (R41). -/
inductive PeriphState where
  | idle
  | sendingData
  deriving DecidableEq, Repr

/-- A buffer space as (offset, byte) pairs, offsets strictly rising. An offset that is not listed
holds no value: nothing has been stored there since the space was last reset, and a read of it
draws `Config.unspecifiedByte` (assumption 3). -/
abbrev Memory := List Host.Cell

/-- The canonical form: offsets strictly rising. -/
def Memory.wf : Memory → Bool
  | [] => true
  | [_] => true
  | a :: b :: rest => decide (a.1 < b.1) && Memory.wf (b :: rest)

/-- The output events (00_scope.md R16): the Transport Port calls and the completion event. -/
inductive Event where
  /-- `emit Write(addr, bytes)` (20_memory.md R67). -/
  | write (addr : Nat) (bytes : List Byte)
  /-- `emit RequestFrom(addr, count)` (R70). -/
  | requestFrom (addr count : Nat)
  /-- `emit Send(bytes)` (R72). -/
  | send (bytes : List Byte)
  /-- `emit Complete(cb, buffer_or_none, logical_size, physical_size)` (44_host_api.md R215). -/
  | complete (cb : Handle) (buffer : Option (List Byte)) (logical : Word16) (physical : Word17)
  deriving DecidableEq, Repr

/-- What an operation returns to its caller. For a wire packet: the record its decode rule reads
from it. -/
inductive Ret where
  | none
  | bytes (b : List Byte)
  | ping (r : PingRecord)
  | pingResponse (r : PingResponseRecord)
  | startOfStream (r : StartOfStreamRecord)
  | bool (b : Bool)
  | ctrlState (c : CtrlState)
  | word32 (v : Word32)
  | word16 (v : Word16)
  deriving DecidableEq, Repr

/-- The controller's registers (10_state.md R20 to R30). -/
structure Ctrl where
  /-- `C.state` (R21). -/
  state : CtrlState
  /-- `C.connected` (R22). -/
  connected : Bool
  /-- `C.device_type` (R23). -/
  deviceType : Word32
  /-- `C.device_version` (R23). -/
  deviceVersion : Word16
  /-- `C.pending_receiver` (R24). -/
  pendingReceiver : Option Handle
  /-- `C.capacity` (R25). -/
  capacity : Word17
  /-- The contents of `RXBUF` (R25; 20_memory.md R60). -/
  rxbuf : Memory
  /-- `C.data_loc` (R26). -/
  dataLoc : Word17
  /-- `C.expected_data_size` (R27). -/
  expectedDataSize : Word16
  /-- `C.expected_checksum` (R27). -/
  expectedChecksum : List Byte
  /-- `C.last_ping_ms` (R28). -/
  lastPingMs : Word32
  /-- `C.last_bytes_received_ms` (R28). -/
  lastBytesReceivedMs : Word32
  /-- `C.timeout_period` (R29). -/
  timeoutPeriod : Word32
  /-- `C.req_mark` (R30). -/
  reqMark : Word17
  deriving DecidableEq, Repr

/-- The peripheral's registers (10_state.md R40 to R44). -/
structure Periph where
  /-- `P.state` (R41). -/
  state : PeriphState
  /-- `P.peripheral_type` (R42). -/
  peripheralType : Word32
  /-- `P.peripheral_version` (R42). -/
  peripheralVersion : Word16
  /-- `P.out_len` (R43). -/
  outLen : Word16
  /-- The contents of `OUTBUF` (R43; 20_memory.md R61). -/
  outbuf : Memory
  /-- `P.send_cursor` (R44). -/
  sendCursor : Word16
  deriving DecidableEq, Repr

/-- The transport: the receive queues of both ports and the rest of the reference bus
(10_state.md R50, R51; 20_memory.md R80), and the registration of the request handler
(20_memory.md R71). -/
structure Bus where
  /-- `c2p_wire`: written by the controller, not yet delivered; oldest first. -/
  c2pWire : List Byte
  /-- `p2c_wire`: written by the peripheral, not yet delivered; oldest first. -/
  p2cWire : List Byte
  /-- `c_rx`: received at the controller's port, not yet pulled; oldest first. -/
  cRx : List Byte
  /-- `p_rx`: received at the peripheral's port, not yet pulled; oldest first. -/
  pRx : List Byte
  /-- `credit`: bytes the controller has asked for and not yet received. -/
  credit : Nat
  /-- `req_events`: request events raised and not yet fired. -/
  reqEvents : Nat
  /-- Whether `P.ON_REQUEST` is registered with `TP.on_request` (44_host_api.md R219). -/
  onRequestRegistered : Bool
  deriving DecidableEq, Repr

/-- The MODEL's own counters for the free value `Config.unspecifiedByte`: how often each buffer
space has been reset (assumption 3). -/
structure FreeState where
  rxEpoch : Nat
  outEpoch : Nat
  deriving DecidableEq, Repr

/-- The whole machine: both agents, the transport, the static parameters, and the model's own
inputs and outputs. -/
structure State where
  /-- The controller. -/
  c : Ctrl
  /-- The peripheral. -/
  p : Periph
  /-- The transport. -/
  bus : Bus
  /-- The open static parameters (00_scope.md R8); no step changes them. -/
  cfg : Params
  /-- The MODEL's own: the trace still to come, next item first (assumption 1). -/
  inputs : List Stimulus
  /-- The MODEL's own: the events the last operation emitted, in order (00_scope.md R16). -/
  out : List Event
  /-- The MODEL's own: what the last operation returned. -/
  ret : Ret
  /-- The MODEL's own: the counters of the free value. -/
  free : FreeState
  deriving DecidableEq, Repr

/-- Why the machine stops with a fault. -/
inductive Fault where
  /-- A buffer access outside offsets 0 to capacity - 1, which "is made by no rule" (00_scope.md
  R13). Raised by `memRead`. Safe: only a state that breaks the invariants of 10_state.md R32 or
  R44 can reach it. -/
  | bufferOffsetAbsent (space : BufSpace)
  deriving DecidableEq, Repr

/-- Why a step has no meaning. -/
inductive Refusal where
  /-- The instruction has no meaning in this model yet. Raised by `exec` alone. Safe. -/
  | notModelled (mnemonic : String)
  /-- A codec function on a byte string that is not exactly the fixed size of its kind
  (40_packet_codec.md R120; 93 U3: `refuse`), and, the model's own (assumptions 19 and 26), a
  StartOfStream term whose checksum has not its format's size. Raised by the codec and packet
  meanings. Safe: the spec defines nothing there. -/
  | codecLength
  /-- `C.REQUEST_DATA` while a request is pending (44_host_api.md R217; 93 U1: `refuse`). Raised by
  `execCRequestData`. Safe: the spec gives the operation no effect. -/
  | requestPending
  /-- A data provider that returns more than 65535 bytes, or fewer than its length says
  (43_peripheral.md R191; 93 U6: `refuse`). Raised by `onRequest`. Safe. -/
  | providerDomain
  /-- A step of the reference bus that is not enabled (20_memory.md R82, R84, R86, R87). Raised by
  `execBus`. Safe: the bus cannot take it. -/
  | busStepNotEnabled (b : BusStep)
  deriving DecidableEq, Repr

/-- The controller after construction (10_state.md R35; 44_host_api.md R210). -/
def Ctrl.reset (cfg : Params) : Ctrl where
  state := .idle
  connected := false
  deviceType := 0#32
  deviceVersion := 0#16
  pendingReceiver := none
  capacity := 0#17
  rxbuf := []
  dataLoc := 0#17
  expectedDataSize := 0#16
  expectedChecksum := List.replicate cfg.cksumWidth.bytes 0#8
  lastPingMs := 0#32
  lastBytesReceivedMs := 0#32
  timeoutPeriod := cfg.timeoutDefaultMs
  reqMark := 0#17

/-- The peripheral after construction (10_state.md R47; 44_host_api.md R219). -/
def Periph.reset (peripheralType : Word32) (peripheralVersion : Word16) : Periph where
  state := .idle
  peripheralType := peripheralType
  peripheralVersion := peripheralVersion
  outLen := 0#16
  outbuf := []
  sendCursor := 0#16

/-- The transport at reset: all queues empty, all counts zero (20_memory.md R80), the handler
registered by the peripheral's construction (44_host_api.md R219). -/
def Bus.reset : Bus where
  c2pWire := []
  p2cWire := []
  cRx := []
  pRx := []
  credit := 0
  reqEvents := 0
  onRequestRegistered := true

/-- The static parameters of the one state `State.reset`: the reference values of the test vectors
(W = 4, `TIMEOUT_DEFAULT_MS` = 1000) and address 0. DESIGN CHOICE, unsafe (assumption 4): the spec
leaves the four parameters open, and the statements quantify over every value of them. -/
def Params.reference : Params where
  cksumWidth := .w4
  periphAddr := 0
  timeoutDefaultMs := 1000#32

/-- The machine right after reset, which is construction (70_reset_and_hazards.md R270): the state
after `C.NEW` and after `P.NEW` with type 0 and version 0 (assumption 5), an empty bus, and no
operation of a trace placed yet. -/
def State.reset : State where
  c := Ctrl.reset Params.reference
  p := Periph.reset 0#32 0#16
  bus := Bus.reset
  cfg := Params.reference
  inputs := []
  out := []
  ret := .none
  free := { rxEpoch := 0, outEpoch := 0 }

end Sys2Proof.Machine
end

