-- ==== Sys2Proof/Machine/Operands.lean ====
section
/-! DEFINITION. The quantities an operation computes from its inputs and the registers before it
acts: times, the padded size, buffer limits, the unsent rest of a payload. -/

namespace Sys2Proof.Machine

/-- `elapsed(now, t) = (now - t) mod 2^32` (00_scope.md R14). -/
def elapsed (now t : Word32) : Word32 := now - t

/-- `pad32(D) = ((D + 31) div 32) * 32`, computed without wrap-around (42_stream_receiver.md R171,
R172). -/
def pad32 (d : Word16) : Word17 :=
  BitVec.ofNat 17 ((d.toNat + (Config.chunkSize - 1)) / Config.chunkSize * Config.chunkSize)

/-- `SOS_SIZE` = 3 + W under the configured W (00_scope.md R8). -/
def State.sosSize (s : State) : Nat := Config.sosSize s.cfg.cksumWidth

/-- `PERIPH_ADDR` (20_memory.md R73). -/
def State.periphAddr (s : State) : Nat := s.cfg.periphAddr

/-- How many offsets a buffer space has: `C.capacity` or `P.out_len` (20_memory.md R60, R61). -/
def State.spaceSize (s : State) : BufSpace → Nat
  | .rxbuf => s.c.capacity.toNat
  | .outbuf => s.p.outLen.toNat

/-- What a buffer space holds. -/
def State.spaceCells (s : State) : BufSpace → Memory
  | .rxbuf => s.c.rxbuf
  | .outbuf => s.p.outbuf

/-- How often a buffer space has been reset (assumption 3). -/
def State.spaceEpoch (s : State) : BufSpace → Nat
  | .rxbuf => s.free.rxEpoch
  | .outbuf => s.free.outEpoch

/-- `rem <- P.out_len - P.send_cursor` (43_peripheral.md R193). -/
def State.unsent (s : State) : Nat := s.p.outLen.toNat - s.p.sendCursor.toNat

/-- The domain of a data provider's result: at most 65535 bytes, and at least `length` of them
(43_peripheral.md R191; 93 U6). -/
def providerInRange (bytes : List Byte) (length : Nat) : Bool :=
  decide (length ≤ Config.maxDataSize) && decide (length ≤ bytes.length)

/-- The number `C.GET_STATE` returns for a state (10_state.md R21). -/
def ctrlStateCode : CtrlState → BitVec 2
  | .idle => 0#2
  | .awaitingPingResponse => 1#2
  | .awaitingStartOfStream => 2#2
  | .receivingData => 3#2

/-- The number of a peripheral state (10_state.md R41). -/
def periphStateCode : PeriphState → BitVec 1
  | .idle => 0#1
  | .sendingData => 1#1

end Sys2Proof.Machine
end

