-- ==== Sys2Proof/Machine/Flags.lean ====
section
/-! DEFINITION. The conditions the operations test. The block has no condition codes (10_state.md
R33); these are the three timers of 60_exceptions.md R256, the status test, and the receiver's
framing tests. -/

namespace Sys2Proof.Machine

/-- `is_timeout(st)`: true exactly for the class `TIMEOUT` (20_memory.md R68). -/
def isTimeout (st : Status) : Bool := decide (st = .timeout)

/-- The noise deferral: Idle, and at most `NOISE_WINDOW_MS` since the last byte
(41_controller_update.md R133). -/
def noiseDeferred (now : Word32) (s : State) : Bool :=
  decide (s.c.state = .idle) &&
    decide (elapsed now s.c.lastBytesReceivedMs ≤ Config.noiseWindowMs)

/-- The liveness timeout: not Idle, and more than `C.timeout_period` since the last byte (R134). -/
def silenceExpired (now : Word32) (s : State) : Bool :=
  decide (s.c.state ≠ .idle) &&
    decide (s.c.timeoutPeriod < elapsed now s.c.lastBytesReceivedMs)

/-- The heartbeat is due: at least `HEARTBEAT_MS` since the last valid PingResponse (R137). -/
def heartbeatDue (now : Word32) (s : State) : Bool :=
  decide (Config.heartbeatMs ≤ elapsed now s.c.lastPingMs)

/-- The frame is complete: `C.data_loc = C.capacity` (R141, R144; 42_stream_receiver.md R174). -/
def frameComplete (s : State) : Bool := decide (s.c.dataLoc = s.c.capacity)

/-- A chunk read-request is due: `C.data_loc >= C.req_mark` and `C.req_mark < C.capacity`
(42_stream_receiver.md R173). -/
def chunkRequestDue (s : State) : Bool :=
  decide (s.c.reqMark ≤ s.c.dataLoc) && decide (s.c.reqMark < s.c.capacity)

/-- The peripheral's port holds exactly one byte and it decodes as a valid Ping
(43_peripheral.md R195). -/
def isLonePing (pulled : List Byte) : Bool :=
  decide (pulled.length = Config.pingSize) && (decodePing pulled).valid

end Sys2Proof.Machine
end

