-- ==== Sys2Proof/Machine/Ops.lean ====
section
/-! DEFINITION. The named operations over buffers, ports and registers that the meanings share:
buffer access (00_scope.md R13), the Transport Port calls and the completion event (R16), the pull,
the buffer resets (10_state.md R31), and the four failure classes (60_exceptions.md R240 to R244). -/

namespace Sys2Proof.Machine

/-! ### Buffer spaces -/

/-- The byte stored at an offset, if one has been stored there. -/
def Memory.read : Memory → Nat → Option Byte
  | [], _ => none
  | (k, v) :: rest, a => if k = a then some v else Memory.read rest a

/-- Store one byte, keeping the canonical form. -/
def Memory.write : Memory → Nat → Byte → Memory
  | [], a, b => [(a, b)]
  | (k, v) :: rest, a, b =>
    if a < k then (a, b) :: (k, v) :: rest
    else if a = k then (a, b) :: rest
    else (k, v) :: Memory.write rest a b

/-- A byte string laid down from offset `a` on. -/
def Memory.ofBytes : Nat → List Byte → Memory
  | _, [] => []
  | a, b :: rest => (a, b) :: Memory.ofBytes (a + 1) rest

/-- The byte a buffer space shows at an offset: what was stored, else any value (10_state.md R31). -/
def State.byteOf (s : State) (space : BufSpace) (a : Nat) : Byte :=
  ((s.spaceCells space).read a).getD (Config.unspecifiedByte space (s.spaceEpoch space) a)

/-- `n` bytes of a buffer space from an offset on. -/
def State.bytesFrom (s : State) (space : BufSpace) : Nat → Nat → List Byte
  | _, 0 => []
  | a, n + 1 => s.byteOf space a :: State.bytesFrom s space (a + 1) n

/-- `MemRead(space, addr, n)` (00_scope.md R13). An access outside offsets 0 to capacity - 1 "is
made by no rule": it faults. -/
def memRead (space : BufSpace) (addr n : Nat) (s : State) : Except Fault (List Byte) :=
  if addr + n ≤ s.spaceSize space then .ok (s.bytesFrom space addr n)
  else .error (.bufferOffsetAbsent space)

/-- Go on with the bytes a buffer read gives, or stop with its fault. -/
def withBytes (r : Except Fault (List Byte)) (k : List Byte → Host.Outcome State Fault Refusal) :
    Host.Outcome State Fault Refusal :=
  match r with
  | .ok bytes => k bytes
  | .error f => .fault f

/-! ### Outputs -/

/-- The start of an operation: nothing emitted, nothing returned yet. -/
def State.start (s : State) : State := { s with out := [], ret := .none }

/-- Return a value to the caller. -/
def State.returning (s : State) (r : Ret) : State := { s with ret := r }

/-- Append one output event; events are emitted in the order the pseudocode reaches them
(00_scope.md R16). -/
def State.emit (s : State) (e : Event) : State := { s with out := s.out ++ [e] }

/-- `emit Write(PERIPH_ADDR, bytes)` under the status the transport returns: the reference bus
carries the bytes only if it is `OK` (20_memory.md R67, R81). -/
def emitWrite (bytes : List Byte) (st : Status) (s : State) : State :=
  let s := s.emit (.write s.periphAddr bytes)
  if st = .ok then { s with bus := { s.bus with c2pWire := s.bus.c2pWire ++ bytes } } else s

/-- `emit RequestFrom(PERIPH_ADDR, count)` (20_memory.md R70, R85). -/
def emitRequestFrom (count : Nat) (s : State) : State :=
  let s := s.emit (.requestFrom s.periphAddr count)
  { s with bus := { s.bus with
      credit := s.bus.credit + count
      reqEvents := s.bus.reqEvents + 1 } }

/-- `emit Send(bytes)` (20_memory.md R72, R83). Its status is ignored (43_peripheral.md R201). -/
def emitSend (bytes : List Byte) (s : State) : State :=
  let s := s.emit (.send bytes)
  { s with bus := { s.bus with p2cWire := s.bus.p2cWire ++ bytes } }

/-- `emit Complete(cb, buffer_or_none, logical_size, physical_size)` for the pending receiver
(44_host_api.md R215). Without one nothing is emitted (assumption 9); 10_state.md R32 (e) rules
that out. -/
def emitComplete (buffer : Option (List Byte)) (logical : Word16) (physical : Word17) (s : State) :
    State :=
  match s.c.pendingReceiver with
  | some cb => s.emit (.complete cb buffer logical physical)
  | none => s

/-! ### The receive queues -/

/-- Bytes reach the controller's port: they join its queue, and each one lowers the credit, never
below 0 (20_memory.md R80, R84). -/
def arriveAtController (bytes : List Byte) (s : State) : State :=
  { s with bus := { s.bus with
      cRx := s.bus.cRx ++ bytes
      credit := s.bus.credit - bytes.length } }

/-- Bytes reach the peripheral's port (20_memory.md R82). -/
def arriveAtPeripheral (bytes : List Byte) (s : State) : State :=
  { s with bus := { s.bus with pRx := s.bus.pRx ++ bytes } }

/-- Take every byte out of the controller's queue (20_memory.md R69). -/
def drainController (s : State) : State := { s with bus := { s.bus with cRx := [] } }

/-- Take every byte out of the peripheral's queue (20_memory.md R69). -/
def drainPeripheral (s : State) : State := { s with bus := { s.bus with pRx := [] } }

/-- One byte of the pull: stored at the write cursor if there is room, else discarded
(41_controller_update.md R131). -/
def storeByte (b : Byte) (s : State) : State :=
  if s.c.dataLoc < s.c.capacity then
    { s with c := { s.c with
        rxbuf := s.c.rxbuf.write s.c.dataLoc.toNat b
        dataLoc := s.c.dataLoc + 1#17 } }
  else s

/-- `pull(rx)` (41_controller_update.md R131). -/
def pull : List Byte → State → State
  | [], s => s
  | b :: rest, s => pull rest (storeByte b s)

/-- "if any bytes arrived, stamp `last_bytes_received_ms`" (41_controller_update.md R132). -/
def stampArrival (now : Word32) (pulled : List Byte) (s : State) : State :=
  if pulled = [] then s else { s with c := { s.c with lastBytesReceivedMs := now } }

/-! ### Buffer resets -/

/-- `reset_buffer(n)` (10_state.md R31): the old contents are discarded and the new ones are
unspecified. -/
def resetBuffer (n : Nat) (s : State) : State :=
  { s with
    c := { s.c with capacity := BitVec.ofNat 17 n, dataLoc := 0#17, rxbuf := [] }
    free := { s.free with rxEpoch := s.free.rxEpoch + 1 } }

/-- `release_buffer()` (10_state.md R31). -/
def releaseBuffer (s : State) : State := resetBuffer 0 s

/-- The peripheral takes a payload snapshot: all of `OUTBUF` is replaced and the cursor goes to 0
(43_peripheral.md R191; the single hand-off of 20_memory.md R79). -/
def loadOutbuf (payload : List Byte) (s : State) : State :=
  { s with p := { s.p with
      outbuf := Memory.ofBytes 0 payload
      outLen := BitVec.ofNat 16 payload.length
      sendCursor := 0#16 } }

/-- The peripheral releases its payload and returns to Idle (43_peripheral.md R193, R199, R200). -/
def releaseOutbuf (s : State) : State :=
  { s with
    p := { s.p with outbuf := [], outLen := 0#16, sendCursor := 0#16, state := .idle }
    free := { s.free with outEpoch := s.free.outEpoch + 1 } }

/-! ### Peripheral register writes -/

/-- The peripheral's registers after `P.NEW` (44_host_api.md R219, 10_state.md R47); what the buffer
held is discarded. -/
def resetPeripheral (t : Word32) (v : Word16) (s : State) : State :=
  { s with
    p := Periph.reset t v
    free := { s.free with outEpoch := s.free.outEpoch + 1 } }

/-- `P.state <- x` (10_state.md R41). -/
def setPeriphState (x : PeriphState) (s : State) : State := { s with p := { s.p with state := x } }

/-- `P.send_cursor <- P.send_cursor + CHUNK_SIZE` (10_state.md R44; 43_peripheral.md R198). -/
def advanceSendCursor (s : State) : State :=
  { s with p := { s.p with sendCursor := s.p.sendCursor + BitVec.ofNat 16 Config.chunkSize } }

/-! ### Transport steps -/

/-- `TP.on_request(P.ON_REQUEST)`: the handler is registered (20_memory.md R71). -/
def registerHandler (s : State) : State :=
  { s with bus := { s.bus with onRequestRegistered := true } }

/-- The controller's wire after its head byte has been taken (20_memory.md R82). -/
def setC2PWire (rest : List Byte) (s : State) : State :=
  { s with bus := { s.bus with c2pWire := rest } }

/-- The peripheral's wire after its head byte has been taken (20_memory.md R84). -/
def setP2CWire (rest : List Byte) (s : State) : State :=
  { s with bus := { s.bus with p2cWire := rest } }

/-- `req_events <- req_events - 1` (20_memory.md R86). -/
def takeRequestEvent (s : State) : State :=
  { s with bus := { s.bus with reqEvents := s.bus.reqEvents - 1 } }

/-! ### Controller register writes -/

/-- `C.state <- x` (10_state.md R21). -/
def setCtrlState (x : CtrlState) (s : State) : State := { s with c := { s.c with state := x } }

/-- `C.connected <- v` (10_state.md R22). -/
def setConnected (v : Bool) (s : State) : State := { s with c := { s.c with connected := v } }

/-- `C.pending_receiver <- v` (10_state.md R24). -/
def setPending (v : Option Handle) (s : State) : State :=
  { s with c := { s.c with pendingReceiver := v } }

/-- Every register of the controller takes its reset value (44_host_api.md R210, 10_state.md R35);
what the buffer held is discarded. -/
def resetController (s : State) : State :=
  { s with
    c := Ctrl.reset s.cfg
    free := { s.free with rxEpoch := s.free.rxEpoch + 1 } }

/-- `C.timeout_period <- v` (10_state.md R29). -/
def setTimeoutPeriod (v : Word32) (s : State) : State :=
  { s with c := { s.c with timeoutPeriod := v } }

/-- The identity registers take a PingResponse's fields and `C.last_ping_ms` the time of its
receipt (41_controller_update.md R143). -/
def recordIdentity (now t : Word32) (v : Word16) (s : State) : State :=
  { s with c := { s.c with deviceType := t, deviceVersion := v, lastPingMs := now } }

/-- The capture of a header (10_state.md R27, R30; 41_controller_update.md R146). -/
def captureHeader (d : Word16) (ck : List Byte) (s : State) : State :=
  { s with c := { s.c with expectedDataSize := d, expectedChecksum := ck, reqMark := 0#17 } }

/-- `C.req_mark <- C.req_mark + CHUNK_SIZE` (10_state.md R30; 42_stream_receiver.md R173). -/
def advanceReqMark (s : State) : State :=
  { s with c := { s.c with reqMark := s.c.reqMark + BitVec.ofNat 17 Config.chunkSize } }

/-- The end of a transfer, match or mismatch (42_stream_receiver.md R178). -/
def endTransfer (s : State) : State :=
  setCtrlState .idle (setPending none (releaseBuffer s))

/-! ### Failures

The block has no trap mechanism: no handler, no vector, no saved state and no return operation
(60_exceptions.md R252, R253). `raise` makes a failure's whole effect, the register writes and the
event of R241 to R244, and the operation that detects it does nothing after it. -/

/-- The four failure classes (60_exceptions.md R240). -/
inductive FailureClass where
  /-- Class (a) (R241). -/
  | transport
  /-- Class (b) (R242). -/
  | malformed
  /-- Class (c) (R243). -/
  | checksum
  /-- Class (d) (R244). -/
  | silence
  deriving DecidableEq, Repr

/-- `raise <Class>()` (60_exceptions.md R240 to R244). -/
def raise (f : FailureClass) (s : State) : State :=
  match f with
  | .transport => setConnected false s
  | .malformed => setCtrlState .idle (setPending none (setConnected false s))
  | .checksum => endTransfer (emitComplete none 0#16 0#17 s)
  | .silence => setPending none (releaseBuffer (setConnected false (setCtrlState .idle s)))

/-! ### The trace -/

/-- What `fetch` finds at the head of the trace. -/
inductive Fetched where
  /-- The trace is empty: nothing happens (60_exceptions.md R261). -/
  | nothing
  /-- An operation, or the packet that raw bytes decode to. -/
  | instr (i : Instr) (s : State)
  /-- A step of the reference bus. -/
  | busStep (b : BusStep) (s : State)
  /-- Raw bytes that are no packet of the format their receiver expects. -/
  | raw (f : Format) (bytes : List Byte) (s : State)
  deriving DecidableEq, Repr

/-- Take the next item off the trace, decoding the bytes of a packet (30_encoding.md R97). -/
def fetch (s : State) : Fetched :=
  match s.inputs with
  | [] => .nothing
  | .wire f bytes :: rest =>
    match decode f bytes with
    | .ok i => .instr i { s with inputs := rest }
    | .error _ => .raw f bytes { s with inputs := rest }
  | .op i :: rest => .instr i { s with inputs := rest }
  | .bus b :: rest => .busStep b { s with inputs := rest }

/-- Put the packet of a table word at the head of the trace (assumption 7). -/
def placeWord (nbits w : Nat) (s : State) : State :=
  { s with inputs := .wire (tableFormat nbits w) (wordBytes (nbits / 8) w) :: s.inputs }

end Sys2Proof.Machine
end

