-- ==== Sys2Proof/Machine/Peripheral.lean ====
section
/-! DEFINITION. The peripheral's operations: construction, the request event and the poll
(43_peripheral.md R190 to R201, 44_host_api.md R219). -/

namespace Sys2Proof.Machine

/-- `P.NEW` (44_host_api.md R219): the identity takes the arguments, the other registers their
reset values, and `P.ON_REQUEST` is registered with the transport. -/
def execPNew (t : Word32) (v : Word16) (s : State) : Host.Outcome State Fault Refusal :=
  .next (registerHandler (resetPeripheral t v s.start))

/-- The request event at an Idle peripheral, on a provider result in its domain (R191). -/
def beginTransfer (payload : List Byte) (s : State) : Host.Outcome State Fault Refusal :=
  let s := loadOutbuf payload s
  withBytes (memRead .outbuf 0 s.p.outLen.toNat s) fun bytes =>
    let header := encodeStartOfStream s.p.outLen (Config.cksum s.cfg.cksumWidth bytes)
    .next (setPeriphState .sendingData (emitSend header s))

/-- The request event (R191, R192). In SendingData the provider is not called, so what it would
return does not matter. -/
def onRequest (bytes : List Byte) (length : Nat) (s : State) : Host.Outcome State Fault Refusal :=
  match s.p.state with
  | .sendingData => .next s
  | .idle =>
    if providerInRange bytes length then beginTransfer (bytes.take length) s
    else .refused .providerDomain

/-- `P.ON_REQUEST` (R191, R192). -/
def execPOnRequest (bytes : List Byte) (length : Nat) (s : State) :
    Host.Outcome State Fault Refusal :=
  onRequest bytes length s.start

/-- Ping detection (R194 to R197): exactly one byte, and that a Ping, is answered. -/
def detectPing (pulled : List Byte) (s : State) : State :=
  if isLonePing pulled then
    emitSend (encodePingResponse s.p.peripheralType s.p.peripheralVersion) s
  else s

/-- The chunked send (R198 to R200): a full chunk, the exact tail, or nothing and the release. -/
def chunkedSend (s : State) : Host.Outcome State Fault Refusal :=
  match s.p.state with
  | .idle => .next s
  | .sendingData =>
    if Config.chunkSize ≤ s.unsent then
      withBytes (memRead .outbuf s.p.sendCursor.toNat Config.chunkSize s) fun chunk =>
        .next (advanceSendCursor (emitSend chunk s))
    else if 0 < s.unsent then
      withBytes (memRead .outbuf s.p.sendCursor.toNat s.unsent s) fun tail =>
        .next (releaseOutbuf (emitSend tail s))
    else .next (releaseOutbuf s)

/-- `P.UPDATE` (R193): the bytes `rx` reach the port, every byte available there is pulled, and
ping detection comes before the chunked send. -/
def execPUpdate (rx : List Byte) (s : State) : Host.Outcome State Fault Refusal :=
  let s := arriveAtPeripheral rx s.start
  let pulled := s.bus.pRx
  chunkedSend (detectPing pulled (drainPeripheral s))

end Sys2Proof.Machine
end

