-- ==== Sys2Proof/Machine/Bus.lean ====
section
/-! DEFINITION. The steps the reference bus takes on its own (20_memory.md R82, R84, R86, R87).
They are no rows of the opcode table; a trace names the ones taken (30_encoding.md R104). -/

namespace Sys2Proof.Machine

/-- DELIVER_C2P (R82): enabled when `c2p_wire` is not empty. -/
def busDeliverC2P (s : State) : Host.Outcome State Fault Refusal :=
  match s.bus.c2pWire with
  | [] => .refused (.busStepNotEnabled .deliverC2P)
  | b :: rest =>
    .next (arriveAtPeripheral [b] (setC2PWire rest s.start))

/-- DELIVER_P2C (R84): enabled when `p2c_wire` is not empty; delivery does not need credit. -/
def busDeliverP2C (s : State) : Host.Outcome State Fault Refusal :=
  match s.bus.p2cWire with
  | [] => .refused (.busStepNotEnabled .deliverP2C)
  | b :: rest =>
    .next (arriveAtController [b] (setP2CWire rest s.start))

/-- FIRE_REQUEST (R86): enabled when an event is pending; the registered handler runs
(20_memory.md R71). Operations are atomic, so the peripheral is never inside `P.UPDATE` (R79). -/
def busFireRequest (bytes : List Byte) (length : Nat) (s : State) :
    Host.Outcome State Fault Refusal :=
  if 0 < s.bus.reqEvents ∧ s.bus.onRequestRegistered = true then
    onRequest bytes length (takeRequestEvent s.start)
  else .refused (.busStepNotEnabled (.fireRequest bytes length))

/-- FILL (R87): enabled when credit is left and nothing of the peripheral's can still come. -/
def busFill (b : Byte) (s : State) : Host.Outcome State Fault Refusal :=
  if 0 < s.bus.credit ∧ s.bus.p2cWire = [] ∧ s.bus.reqEvents = 0 ∧ s.p.state = .idle then
    .next (arriveAtController [b] s.start)
  else .refused (.busStepNotEnabled (.fill b))

/-- One step of the reference bus. -/
def execBus (b : BusStep) (s : State) : Host.Outcome State Fault Refusal :=
  match b with
  | .deliverC2P => busDeliverC2P s
  | .deliverP2C => busDeliverP2C s
  | .fireRequest bytes length => busFireRequest bytes length s
  | .fill b => busFill b s

end Sys2Proof.Machine
end

