-- ==== Sys2Proof/Machine/Codec.lean ====
section
/-! DEFINITION. The six codec operations (40_packet_codec.md R110 to R117): pure functions of their
operands and of W, whose result goes to the caller. On a byte string that is not exactly the fixed
size of the kind they are not defined (R120; 93 U3: `refuse`). -/

namespace Sys2Proof.Machine

/-- A codec result on operands of the right size. -/
def codecResult (sized : Bool) (r : Ret) (s : State) : Host.Outcome State Fault Refusal :=
  if sized then .next (s.start.returning r) else .refused .codecLength

/-- `ENCODE_PING` (R112). -/
def execEncodePing (s : State) : Host.Outcome State Fault Refusal :=
  codecResult true (.bytes encodePing) s

/-- `DECODE_PING` (R113). -/
def execDecodePing (buf : List Byte) (s : State) : Host.Outcome State Fault Refusal :=
  codecResult (buf.length == Config.pingSize) (.ping (decodePing buf)) s

/-- `ENCODE_PING_RESPONSE` (R114). -/
def execEncodePingResponse (t : Word32) (v : Word16) (s : State) :
    Host.Outcome State Fault Refusal :=
  codecResult true (.bytes (encodePingResponse t v)) s

/-- `DECODE_PING_RESPONSE` (R115). -/
def execDecodePingResponse (buf : List Byte) (s : State) : Host.Outcome State Fault Refusal :=
  codecResult (buf.length == Config.pingResponseSize)
    (.pingResponse (decodePingResponse buf)) s

/-- `ENCODE_START_OF_STREAM` (R116) under the configured W. -/
def execEncodeStartOfStream (d : Word16) (ck : List Byte) (s : State) :
    Host.Outcome State Fault Refusal :=
  codecResult (ck.length == s.cfg.cksumWidth.bytes) (.bytes (encodeStartOfStream d ck)) s

/-- `DECODE_START_OF_STREAM` (R117) under the configured W. -/
def execDecodeStartOfStream (buf : List Byte) (s : State) : Host.Outcome State Fault Refusal :=
  codecResult (buf.length == s.sosSize)
    (.startOfStream (decodeStartOfStream s.cfg.cksumWidth buf)) s

end Sys2Proof.Machine
end

