-- ==== Sys2Proof/Machine/Controller.lean ====
section
/-! DEFINITION. `C.UPDATE`: the pull, the liveness rules and the four arms of the state switch
(41_controller_update.md R130 to R146, 42_stream_receiver.md R170 to R178). -/

namespace Sys2Proof.Machine

/-- The Idle arm (R136 to R140): a pending request outranks a due heartbeat. -/
def idleArm (now : Word32) (st : Status) (s : State) : State :=
  match s.c.pendingReceiver with
  | some _ =>
    setCtrlState .awaitingStartOfStream (resetBuffer s.sosSize (emitRequestFrom s.sosSize s))
  | none =>
    if heartbeatDue now s then
      let s := emitWrite encodePing st s
      if isTimeout st then raise .transport s
      else setCtrlState .awaitingPingResponse (resetBuffer Config.pingResponseSize s)
    else s

/-- What a complete PingResponse does (R142, R143). -/
def acceptPingResponse (now : Word32) (pr : PingResponseRecord) (s : State) : State :=
  if pr.peripheralType = 0#32 then raise .malformed s
  else
    setCtrlState .idle
      (setConnected true (recordIdentity now pr.peripheralType pr.peripheralVersion s))

/-- The AwaitingPingResponse arm (R141 to R143). -/
def pingResponseArm (now : Word32) (s : State) : Host.Outcome State Fault Refusal :=
  if frameComplete s then
    withBytes (memRead .rxbuf 0 Config.pingResponseSize s) fun buf =>
      .next (acceptPingResponse now (decodePingResponse buf) s)
  else .next s

/-- What a complete StartOfStream does (R145, R146). -/
def acceptStartOfStream (h : StartOfStreamRecord) (s : State) : State :=
  if h.dataSize = 0#16 then raise .malformed s
  else
    setCtrlState .receivingData
      (resetBuffer (pad32 h.dataSize).toNat (captureHeader h.dataSize h.streamChecksum s))

/-- The AwaitingStartOfStream arm (R144 to R146). -/
def startOfStreamArm (s : State) : Host.Outcome State Fault Refusal :=
  if frameComplete s then
    withBytes (memRead .rxbuf 0 s.sosSize s) fun buf =>
      .next (acceptStartOfStream (decodeStartOfStream s.cfg.cksumWidth buf) s)
  else .next s

/-- What a full receive buffer does: `payload` is its first D bytes and `buffer` all of it
(42_stream_receiver.md R175 to R178). -/
def completeTransfer (payload buffer : List Byte) (s : State) : State :=
  if Config.cksum s.cfg.cksumWidth payload = s.c.expectedChecksum then
    endTransfer (emitComplete (some buffer) s.c.expectedDataSize s.c.capacity s)
  else raise .checksum s

/-- The ReceivingData arm (42_stream_receiver.md R170): completion comes before a chunk request. -/
def receivingArm (s : State) : Host.Outcome State Fault Refusal :=
  if frameComplete s then
    withBytes (memRead .rxbuf 0 s.c.expectedDataSize.toNat s) fun payload =>
      withBytes (memRead .rxbuf 0 s.c.capacity.toNat s) fun buffer =>
        .next (completeTransfer payload buffer s)
  else if chunkRequestDue s then .next (advanceReqMark (emitRequestFrom Config.chunkSize s))
  else .next s

/-- The state switch (R135): exactly one arm runs. -/
def stateSwitch (now : Word32) (st : Status) (s : State) : Host.Outcome State Fault Refusal :=
  match s.c.state with
  | .idle => .next (idleArm now st s)
  | .awaitingPingResponse => pingResponseArm now s
  | .awaitingStartOfStream => startOfStreamArm s
  | .receivingData => receivingArm s

/-- Phases 2 and 3 of a poll, after the pull (R133 to R135). -/
def afterPull (now : Word32) (st : Status) (s : State) : Host.Outcome State Fault Refusal :=
  if noiseDeferred now s then .next s
  else if silenceExpired now s then .next (raise .silence s)
  else stateSwitch now st s

/-- Phase 1 of a poll and the arrival stamp (R131, R132): the bytes `rx` reach the port, and every
byte available there is pulled (20_memory.md R69). -/
def pullPhase (now : Word32) (rx : List Byte) (s : State) : State :=
  let s := arriveAtController rx s.start
  let pulled := s.bus.cRx
  stampArrival now pulled (pull pulled (drainController s))

/-- `C.UPDATE` (R130). -/
def execCUpdate (now : Word32) (rx : List Byte) (st : Status) (s : State) :
    Host.Outcome State Fault Refusal :=
  afterPull now st (pullPhase now rx s)

end Sys2Proof.Machine
end

