-- ==== Sys2Proof/Machine/HostApi.lean ====
section
/-! DEFINITION. The host-facing operations of the controller other than the poll
(44_host_api.md R210 to R217). -/

namespace Sys2Proof.Machine

/-- `C.NEW` (R210): every register of the controller takes its reset value; the bus is not
touched. -/
def execCNew (s : State) : Host.Outcome State Fault Refusal :=
  .next (resetController s.start)

/-- `C.REQUEST_DATA` (R211). While a request is pending the operation has no defined effect and is
refused (R217; 93 U1). -/
def execCRequestData (cb : Handle) (s : State) : Host.Outcome State Fault Refusal :=
  match s.c.pendingReceiver with
  | none => .next (setPending (some cb) s.start)
  | some _ => .refused .requestPending

/-- `C.SET_TIMEOUT_PERIOD` (R212). -/
def execCSetTimeoutPeriod (duration : Word32) (s : State) : Host.Outcome State Fault Refusal :=
  .next (setTimeoutPeriod duration s.start)

/-- `C.CONNECTED` (R213). -/
def execCConnected (s : State) : Host.Outcome State Fault Refusal :=
  .next (s.start.returning (.bool s.c.connected))

/-- `C.GET_STATE` (R214). -/
def execCGetState (s : State) : Host.Outcome State Fault Refusal :=
  .next (s.start.returning (.ctrlState s.c.state))

/-- `C.DEVICE_TYPE` (R216). -/
def execCDeviceType (s : State) : Host.Outcome State Fault Refusal :=
  .next (s.start.returning (.word32 s.c.deviceType))

/-- `C.DEVICE_VERSION` (R216). -/
def execCDeviceVersion (s : State) : Host.Outcome State Fault Refusal :=
  .next (s.start.returning (.word16 s.c.deviceVersion))

end Sys2Proof.Machine
end

