-- ==== Sys2Proof/Machine/Wire.lean ====
section
/-! DEFINITION. The wire packets as instructions: a packet reaches the port of its receiver, which
pulls it at its next poll (20_memory.md R69, R74; assumption 8). What the packet's decode rule
reads from its bytes is the value returned. -/

namespace Sys2Proof.Machine

/-- Bytes reach the port of the agent that receives the format: a PING the peripheral's, every other
format the controller's (30_encoding.md R91 to R94; 20_memory.md R82, R84). -/
def arriveAtReceiver (f : Format) (bytes : List Byte) (s : State) : State :=
  match f with
  | .ping => arriveAtPeripheral bytes s
  | .pingResp => arriveAtController bytes s
  | .sos4 => arriveAtController bytes s
  | .sos16 => arriveAtController bytes s
  | .data => arriveAtController bytes s

/-- What the decode rule of a format reads from a byte string of its size, the sentinel on a wrong
tag (40_packet_codec.md R113, R115, R117, R119); a DATA byte has no decode rule (R94). -/
def recordRead (f : Format) (bytes : List Byte) : Ret :=
  match f with
  | .ping => .ping (decodePing bytes)
  | .pingResp => .pingResponse (decodePingResponse bytes)
  | .sos4 => .startOfStream (decodeStartOfStream .w4 bytes)
  | .sos16 => .startOfStream (decodeStartOfStream .w16 bytes)
  | .data => .none

/-- A byte string of a format's size reaches its receiver. -/
def packetArrives (f : Format) (bytes : List Byte) (s : State) : State :=
  (arriveAtReceiver f bytes s.start).returning (recordRead f bytes)

/-- Bytes that are no packet of the format their receiver expects reach its port all the same: the
transport dispatches on no tag and promises no packet (R97; 20_memory.md R74), "nothing traps" on a
wrong tag (R99), and the receiver's own rules treat the bytes at its next poll. Of another size than
the format's they are no argument of its decode rule (40_packet_codec.md R120), so nothing is
returned (assumption 16). -/
def rawBytesArrive (f : Format) (bytes : List Byte) (s : State) :
    Host.Outcome State Fault Refusal :=
  if bytes.length = formatSize f then .next (packetArrives f bytes s)
  else .next (arriveAtReceiver f bytes s.start)

/-- PING: sent by the controller, received by the peripheral (30_encoding.md R91; decoded by
R113). -/
def execPing (s : State) : Host.Outcome State Fault Refusal :=
  .next (packetArrives .ping encodePing s)

/-- PINGRESP: sent by the peripheral, received by the controller (R92; decoded by R115). -/
def execPingResp (t : Word32) (v : Word16) (s : State) : Host.Outcome State Fault Refusal :=
  .next (packetArrives .pingResp (encodePingResponse t v) s)

/-- SOS4 (R93, R117). A term whose checksum is not 4 bytes is no packet of R93; that it is refused
is the model's own (assumptions 19 and 26). -/
def execSos4 (d : Word16) (ck : List Byte) (s : State) : Host.Outcome State Fault Refusal :=
  if ck.length = CksumWidth.w4.bytes then
    .next (packetArrives .sos4 (encodeStartOfStream d ck) s)
  else .refused .codecLength

/-- SOS16 (R93, R117). A term whose checksum is not 16 bytes is no packet of R93 (assumptions 19 and
26). -/
def execSos16 (d : Word16) (ck : List Byte) (s : State) : Host.Outcome State Fault Refusal :=
  if ck.length = CksumWidth.w16.bytes then
    .next (packetArrives .sos16 (encodeStartOfStream d ck) s)
  else .refused .codecLength

/-- DATA: one byte of the payload stream, of any value, reaches the controller (R94). -/
def execData (d : Byte) (s : State) : Host.Outcome State Fault Refusal :=
  .next (packetArrives .data [d] s)

end Sys2Proof.Machine
end

