-- ==== Sys2Proof/Machine/Dispatch.lean ====
section
/-! DEFINITION. The dispatch of one instruction to its meaning. -/

namespace Sys2Proof.Machine

def exec (i : Instr) (s : State) : Host.Outcome State Fault Refusal :=
  match i with
  | .ping => Sys2Proof.Machine.execPing s
  | .pingResp t v => Sys2Proof.Machine.execPingResp t v s
  | .sos4 d ck => Sys2Proof.Machine.execSos4 d ck s
  | .sos16 d ck => Sys2Proof.Machine.execSos16 d ck s
  | .data d => Sys2Proof.Machine.execData d s
  | .encodePing => Sys2Proof.Machine.execEncodePing s
  | .decodePing buf => Sys2Proof.Machine.execDecodePing buf s
  | .encodePingResponse t v => Sys2Proof.Machine.execEncodePingResponse t v s
  | .decodePingResponse buf => Sys2Proof.Machine.execDecodePingResponse buf s
  | .encodeStartOfStream d ck => Sys2Proof.Machine.execEncodeStartOfStream d ck s
  | .decodeStartOfStream buf => Sys2Proof.Machine.execDecodeStartOfStream buf s
  | .cUpdate now rx st => Sys2Proof.Machine.execCUpdate now rx st s
  | .cNew => Sys2Proof.Machine.execCNew s
  | .cRequestData cb => Sys2Proof.Machine.execCRequestData cb s
  | .cSetTimeoutPeriod duration => Sys2Proof.Machine.execCSetTimeoutPeriod duration s
  | .cConnected => Sys2Proof.Machine.execCConnected s
  | .cGetState => Sys2Proof.Machine.execCGetState s
  | .cDeviceType => Sys2Proof.Machine.execCDeviceType s
  | .cDeviceVersion => Sys2Proof.Machine.execCDeviceVersion s
  | .pNew t v => Sys2Proof.Machine.execPNew t v s
  | .pUpdate rx => Sys2Proof.Machine.execPUpdate rx s
  | .pOnRequest bytes length => Sys2Proof.Machine.execPOnRequest bytes length s

end Sys2Proof.Machine
end

