-- ==== Sys2Proof/Machine/Step.lean ====
section
/-! DEFINITION. One step of the machine: the next item of the trace runs (30_encoding.md R104);
with none left nothing happens, since "the block does nothing between operations"
(60_exceptions.md R261) and never halts (70_reset_and_hazards.md R292). -/

namespace Sys2Proof.Machine

/-- One step. -/
def step (s : State) : Host.Outcome State Fault Refusal :=
  match fetch s with
  | .nothing => .next s.start
  | .instr i t => exec i t
  | .busStep b t => execBus b t
  | .raw f bytes t => rawBytesArrive f bytes t

/-- `s` with the packet of a table word as the next item of its trace (assumption 7). -/
def State.withFetchWord (s : State) (nbits w : Nat) : State := placeWord nbits w s

end Sys2Proof.Machine
end

