-- ==== Sys2Proof/Safety.lean ====
section
/-! DEFINITION. The terms the statements use: the invariants of the two agents (10_state.md R25,
R30, R32, R43 to R45), a safe outcome, what a frame leaves unchanged, and the contents of a receive
buffer after a poll's pull. -/

namespace Sys2Proof.Machine

/-- A buffer space that holds a byte at each offset 0 to `n - 1` and at no other. -/
abbrev Memory.filledTo (m : Memory) (n : Nat) : Prop := m.map Prod.fst = List.range n

/-- The values `C.capacity` takes (10_state.md R25): 0, 7, `SOS_SIZE`, or a multiple of 32 from 32
to 65536. -/
def capacityAllowed (w : CksumWidth) (n : Nat) : Bool :=
  n == 0 || n == Config.pingResponseSize || n == Config.sosSize w ||
    (n % Config.chunkSize == 0 && decide (n ≤ Config.maxPaddedSize))

/-- The controller's invariants. -/
structure CtrlInv (s : State) : Prop where
  /-- R32 (a). -/
  cursor_le : s.c.dataLoc ≤ s.c.capacity
  /-- R32 (b). -/
  idle_full : s.c.state = .idle → s.c.dataLoc = s.c.capacity
  /-- R32 (c). -/
  ping_capacity : s.c.state = .awaitingPingResponse →
    s.c.capacity.toNat = Config.pingResponseSize
  /-- R32 (d). -/
  header_capacity : s.c.state = .awaitingStartOfStream →
    s.c.capacity.toNat = s.sosSize ∧ s.c.pendingReceiver ≠ none
  /-- R32 (e). -/
  receiving : s.c.state = .receivingData →
    s.c.capacity = pad32 s.c.expectedDataSize ∧ s.c.expectedDataSize ≠ 0#16 ∧
      s.c.pendingReceiver ≠ none ∧ s.c.reqMark ≤ s.c.capacity
  /-- R30: `C.req_mark` is always a multiple of 32. -/
  mark_aligned : s.c.reqMark.toNat % Config.chunkSize = 0
  /-- R25. -/
  capacity_allowed : capacityAllowed s.cfg.cksumWidth s.c.capacity.toNat = true
  /-- R27: `C.expected_checksum` is W bytes. -/
  checksum_length : s.c.expectedChecksum.length = s.cfg.cksumWidth.bytes
  /-- R26: the bytes stored since the buffer was last reset are those below the cursor. -/
  rxbuf_filled : s.c.rxbuf.filledTo s.c.dataLoc.toNat

/-- The peripheral's invariants. -/
structure PeriphInv (s : State) : Prop where
  /-- R44. -/
  cursor_le : s.p.sendCursor ≤ s.p.outLen
  /-- R44: the cursor advances by 32. -/
  cursor_aligned : s.p.sendCursor.toNat % Config.chunkSize = 0
  /-- R43: the payload is live exactly in SendingData. -/
  idle_released : s.p.state = .idle → s.p.outLen = 0#16 ∧ s.p.sendCursor = 0#16
  /-- R43: the contents are `P.out_len` bytes. -/
  outbuf_filled : s.p.outbuf.filledTo s.p.outLen.toNat

/-- The machine's invariant: both agents', and the handler registered (44_host_api.md R219). -/
structure Inv (s : State) : Prop where
  ctrl : CtrlInv s
  periph : PeriphInv s
  registered : s.bus.onRequestRegistered = true

/-- An outcome that is no fault. -/
def Safe (o : Host.Outcome State Fault Refusal) : Prop := ∀ f, o ≠ .fault f

/-! ### Frames -/

/-- Every byte of a buffer space reads as before. -/
def SameBytes (space : BufSpace) (s t : State) : Prop := ∀ a, t.byteOf space a = s.byteOf space a

/-- Every byte of both buffer spaces reads as before. -/
def SameMemory (s t : State) : Prop := SameBytes .rxbuf s t ∧ SameBytes .outbuf s t

/-- The static parameters and the trace are unchanged. -/
def SameProgram (s t : State) : Prop := t.cfg = s.cfg ∧ t.inputs = s.inputs

/-- Nothing of either agent, of the transport or of memory is changed: only what the operation
emits and returns is new. -/
def OnlyOutputs (s t : State) : Prop :=
  t.c = s.c ∧ t.p = s.p ∧ t.bus = s.bus ∧ t.free = s.free ∧ SameProgram s t ∧ SameMemory s t

/-- Neither agent and no byte of memory is changed, and nothing is emitted: at most the transport
and the value returned are new. -/
def OnlyTransport (s t : State) : Prop :=
  t.c = s.c ∧ t.p = s.p ∧ t.out = [] ∧ t.free = s.free ∧ SameProgram s t ∧ SameMemory s t

/-- The peripheral, its buffer, the parameters and the trace are unchanged. -/
def PeripheralSide (s t : State) : Prop :=
  t.p = s.p ∧ t.free.outEpoch = s.free.outEpoch ∧ SameBytes .outbuf s t ∧ SameProgram s t

/-- The controller, its buffer, the parameters and the trace are unchanged. -/
def ControllerSide (s t : State) : Prop :=
  t.c = s.c ∧ t.free.rxEpoch = s.free.rxEpoch ∧ SameBytes .rxbuf s t ∧ SameProgram s t

/-- The agents of the operation list (30_encoding.md R103); a wire packet is the transport's. -/
inductive Agent where
  | transport
  | codec
  | controller
  | peripheral
  deriving DecidableEq, Repr

/-- The agent an instruction is an operation of (R103). -/
def agentOf : Instr → Agent
  | .ping => .transport
  | .pingResp _ _ => .transport
  | .sos4 _ _ => .transport
  | .sos16 _ _ => .transport
  | .data _ => .transport
  | .encodePing => .codec
  | .decodePing _ => .codec
  | .encodePingResponse _ _ => .codec
  | .decodePingResponse _ => .codec
  | .encodeStartOfStream _ _ => .codec
  | .decodeStartOfStream _ => .codec
  | .cUpdate _ _ _ => .controller
  | .cNew => .controller
  | .cRequestData _ => .controller
  | .cSetTimeoutPeriod _ => .controller
  | .cConnected => .controller
  | .cGetState => .controller
  | .cDeviceType => .controller
  | .cDeviceVersion => .controller
  | .pNew _ _ => .peripheral
  | .pUpdate _ => .peripheral
  | .pOnRequest _ _ => .peripheral

/-! ### A poll's inputs -/

/-- The bytes a controller poll pulls: those in the queue, then those that arrive with it
(20_memory.md R69). -/
def pulledByController (s : State) (rx : List Byte) : List Byte := s.bus.cRx ++ rx

/-- The bytes a peripheral poll pulls. -/
def pulledByPeripheral (s : State) (rx : List Byte) : List Byte := s.bus.pRx ++ rx

/-- The transport after a controller poll that makes no port call: its queue is drained, and the
arrived bytes have used up credit. -/
def drainedBus (s : State) (rx : List Byte) : Bus :=
  { s.bus with cRx := [], credit := s.bus.credit - rx.length }

/-- The transport after a peripheral poll that makes no port call. -/
def drainedPeripheralBus (s : State) : Bus := { s.bus with pRx := [] }

/-- `C.last_bytes_received_ms` after the arrival stamp (41_controller_update.md R132). -/
def stampAfter (now : Word32) (rx : List Byte) (s : State) : Word32 :=
  if pulledByController s rx = [] then s.c.lastBytesReceivedMs else now

/-- The time since the last byte as the liveness rules of a poll see it
(41_controller_update.md R130): from the stamp that this poll's own bytes have already moved. -/
def sinceLastByte (now : Word32) (rx : List Byte) (s : State) : Word32 :=
  elapsed now (stampAfter now rx s)

/-- The bytes stored in the receive buffer below the write cursor. -/
def storedBytes (s : State) : List Byte := s.bytesFrom .rxbuf 0 s.c.dataLoc.toNat

/-- The bytes stored in the receive buffer after a poll's pull: those stored before, then the
pulled ones, cut at the capacity (41_controller_update.md R131). -/
def frameAfter (rx : List Byte) (s : State) : List Byte :=
  (storedBytes s ++ pulledByController s rx).take s.c.capacity.toNat

/-- The frame is full after a poll's pull: "exactly the expected byte count has arrived". -/
def frameFull (rx : List Byte) (s : State) : Prop :=
  (frameAfter rx s).length = s.c.capacity.toNat

/-- The poll's pull and stamp, as a later state shows them: the cursor stands after the stored
bytes, the buffer reads back as `frameAfter`, and the bytes from there on read as before. -/
structure PullShown (now : Word32) (rx : List Byte) (s t : State) : Prop where
  cursor : t.c.dataLoc.toNat = (frameAfter rx s).length
  stored : storedBytes t = frameAfter rx s
  beyond : ∀ a, (frameAfter rx s).length ≤ a → t.byteOf .rxbuf a = s.byteOf .rxbuf a
  stamp : t.c.lastBytesReceivedMs = stampAfter now rx s

/-- The registers of the controller that a poll's pull and stamp do not write. -/
def Ctrl.unpulled (c : Ctrl) : Ctrl :=
  { c with rxbuf := [], dataLoc := 0#17, lastBytesReceivedMs := 0#32 }

/-! ### Runs of polls -/

/-- Go on from a next state, and stop at a fault or a refusal. -/
def andThen (o : Host.Outcome State Fault Refusal)
    (k : State → Host.Outcome State Fault Refusal) : Host.Outcome State Fault Refusal :=
  match o with
  | .next t => k t
  | .fault f => .fault f
  | .refused r => .refused r

/-- `n` polls of the peripheral with nothing arriving. -/
def peripheralPolls : Nat → State → Host.Outcome State Fault Refusal
  | 0, s => .next s
  | n + 1, s => andThen (exec (.pUpdate []) s) (peripheralPolls n)

/-- Polls of the controller, each with its clock sample and the bytes that arrive with it. -/
def controllerPolls : List (Word32 × List Byte) → State → Host.Outcome State Fault Refusal
  | [], s => .next s
  | (now, rx) :: rest, s => andThen (exec (.cUpdate now rx .ok) s) (controllerPolls rest)

/-- The events of up to `n` steps, in order. -/
def runEvents : Nat → State → List Event
  | 0, _ => []
  | n + 1, s =>
    match step s with
    | .next t => t.out ++ runEvents n t
    | .fault _ => []
    | .refused _ => []

/-- Whether an event is a `Complete`. -/
def Event.isComplete : Event → Bool
  | .write _ _ => false
  | .requestFrom _ _ => false
  | .send _ => false
  | .complete _ _ _ _ => true

/-- Whether an item of a trace is a `C.REQUEST_DATA`. -/
def isRequest : Stimulus → Bool
  | .op (.cRequestData _) => true
  | _ => false

/-- `n` deliveries from the peripheral's wire to the controller's port (20_memory.md R84). -/
def deliveries : Nat → State → Host.Outcome State Fault Refusal
  | 0, s => .next s
  | n + 1, s => andThen (execBus .deliverP2C s) (deliveries n)

end Sys2Proof.Machine
end

