-- ==== Sys2Proof/Certificates/Slice0/Obligations.lean ====
section
/-! DEFINITION. The statements for the provers, from the numbered rules of the spec. Where a
statement rests on a choice of the model or on a decision of the spec (`D<n>`), its docstring says
so. -/

open Sys2Proof Sys2Proof.Machine

/-! ### Encodings and the codec -/

/-- Decode and encode agree, one way: every well-formed packet, with every operand at every value
the encoding admits, is read back from its bytes by the receiver that expects its format, and an
operation (which has no encoding, R102) has neither format nor bytes. -/
def Obligations.WirePacketsDecodeToThemselves : Prop :=
  ∀ i : Instr, i.wellFormed = true →
    (∀ f, formatOf i = some f →
      ∃ bytes, encode i = some bytes ∧ bytes.length = formatSize f ∧ decode f bytes = .ok i) ∧
    (formatOf i = none → encode i = none)

/-- Decode and encode agree, the other way: a packet the decoder reads is well formed and is
encoded to the very bytes it was read from, so no byte of a packet is ignored (R118). -/
def Obligations.DecodedPacketsEncodeBack : Prop :=
  ∀ (f : Format) (bytes : List Byte) (i : Instr), decode f bytes = .ok i →
    encode i = some bytes ∧ formatOf i = some f ∧ i.wellFormed = true

/-- R118, the round-trip law of the six codec functions, both directions: the spec's own derivation
from R112 to R117 and R95. -/
def Obligations.CodecRoundTrips : Prop :=
  decodePing encodePing = { valid := true } ∧
  (∀ t v, decodePingResponse (encodePingResponse t v) =
    { valid := true, peripheralType := t, peripheralVersion := v }) ∧
  (∀ (w : CksumWidth) (d : Word16) (ck : List Byte), ck.length = w.bytes →
    decodeStartOfStream w (encodeStartOfStream d ck) =
      { valid := true, dataSize := d, streamChecksum := ck }) ∧
  (∀ buf : List Byte, buf.length = 7 → byteAt buf 0 = 0xA1#8 →
    encodePingResponse (decodePingResponse buf).peripheralType
      (decodePingResponse buf).peripheralVersion = buf) ∧
  (∀ (w : CksumWidth) (buf : List Byte), buf.length = 3 + w.bytes → byteAt buf 0 = 0xA2#8 →
    encodeStartOfStream (decodeStartOfStream w buf).dataSize
      (decodeStartOfStream w buf).streamChecksum = buf)

/-- R119, the tag law: any other leading byte gives exactly the sentinel of its kind. -/
def Obligations.WrongTagsGiveTheSentinel : Prop :=
  (∀ buf : List Byte, buf.length = 1 → byteAt buf 0 ≠ 0xA0#8 →
    decodePing buf = { valid := false }) ∧
  (∀ buf : List Byte, buf.length = 7 → byteAt buf 0 ≠ 0xA1#8 →
    decodePingResponse buf =
      { valid := false, peripheralType := 0#32, peripheralVersion := 0#16 }) ∧
  (∀ (w : CksumWidth) (buf : List Byte), buf.length = 3 + w.bytes → byteAt buf 0 ≠ 0xA2#8 →
    decodeStartOfStream w buf =
      { valid := false, dataSize := 0#16, streamChecksum := List.replicate w.bytes 0#8 })

/-- R95: the big-endian helpers as numbers, and the fields they assemble. -/
def Obligations.FieldsAreBigEndian : Prop :=
  (∀ (s : List Byte) (i : Nat), (be16 s i).toNat =
    (byteAt s i).toNat * 256 + (byteAt s (i + 1)).toNat) ∧
  (∀ (s : List Byte) (i : Nat), (be32 s i).toNat =
    (byteAt s i).toNat * 2 ^ 24 + (byteAt s (i + 1)).toNat * 2 ^ 16 +
      (byteAt s (i + 2)).toNat * 2 ^ 8 + (byteAt s (i + 3)).toNat) ∧
  (∀ v : Word16, (put16 v).map BitVec.toNat = [v.toNat / 256, v.toNat % 256]) ∧
  (∀ v : Word32, (put32 v).map BitVec.toNat =
    [v.toNat / 2 ^ 24, v.toNat / 2 ^ 16 % 256, v.toNat / 2 ^ 8 % 256, v.toNat % 256]) ∧
  (∀ buf : List Byte, byteAt buf 0 = 0xA1#8 →
    (decodePingResponse buf).peripheralType = be32 buf 1 ∧
    (decodePingResponse buf).peripheralVersion = be16 buf 5) ∧
  (∀ (w : CksumWidth) (buf : List Byte), byteAt buf 0 = 0xA2#8 →
    (decodeStartOfStream w buf).dataSize = be16 buf 1)

/-- A few packets written out from the formats of R91 to R94, as numbers with byte 0 the most
significant (R10): each decodes to the packet it stands for, and a wrong tag to none. How a lone
byte that is the Ping's tag is told from a DATA byte is the model's choice (assumption 7). -/
def Obligations.SpecWordsDecode : Prop :=
  decodeTableWord 8 0xA0 = some .ping ∧
  decodeTableWord 56 0xA100000007_0003 = some (.pingResp 7#32 3#16) ∧
  decodeTableWord 56 0xA1_12345678_9ABC = some (.pingResp 0x12345678#32 0x9ABC#16) ∧
  decodeTableWord 56 0xA2_0028_0DA62E3C = some (.sos4 40#16 [0x0D#8, 0xA6#8, 0x2E#8, 0x3C#8]) ∧
  decodeTableWord 152 0xA2_0040_B2D3F56BC197FD985D5965079B5E7148 = some (.sos16 64#16
    [0xB2#8, 0xD3#8, 0xF5#8, 0x6B#8, 0xC1#8, 0x97#8, 0xFD#8, 0x98#8,
     0x5D#8, 0x59#8, 0x65#8, 0x07#8, 0x9B#8, 0x5E#8, 0x71#8, 0x48#8]) ∧
  decodeTableWord 8 0x41 = some (.data 0x41#8) ∧
  decodeTableWord 56 0xA000000007_0003 = none

/-- The three encoding operations return exactly the bytes of the packet, of exactly the fixed
size, and change nothing (R112, R114, R116). -/
def Obligations.EncodersReturnThePacket : Prop :=
  ∀ s : State,
    (∃ t, exec .encodePing s = .next t ∧ t.ret = .bytes [0xA0#8] ∧ t.out = [] ∧
      OnlyOutputs s t) ∧
    (∀ ty v, ∃ t, exec (.encodePingResponse ty v) s = .next t ∧
      t.ret = .bytes ([0xA1#8] ++ put32 ty ++ put16 v) ∧
      ([0xA1#8] ++ put32 ty ++ put16 v).length = 7 ∧ t.out = [] ∧ OnlyOutputs s t) ∧
    (∀ (d : Word16) (ck : List Byte), ck.length = s.cfg.cksumWidth.bytes →
      ∃ t, exec (.encodeStartOfStream d ck) s = .next t ∧
        t.ret = .bytes ([0xA2#8] ++ put16 d ++ ck) ∧
        ([0xA2#8] ++ put16 d ++ ck).length = 3 + s.cfg.cksumWidth.bytes ∧ t.out = [] ∧
        OnlyOutputs s t)

/-- The three decoding operations, on a buffer of exactly the fixed size, return the packet's
fields or the sentinel, and change nothing (R113, R115, R117). -/
def Obligations.DecodersReturnTheRecord : Prop :=
  ∀ (s : State) (buf : List Byte),
    (buf.length = 1 → ∃ t, exec (.decodePing buf) s = .next t ∧
      t.ret = .ping { valid := decide (byteAt buf 0 = 0xA0#8) } ∧ t.out = [] ∧
      OnlyOutputs s t) ∧
    (buf.length = 7 → ∃ t, exec (.decodePingResponse buf) s = .next t ∧
      t.ret = .pingResponse
        (if byteAt buf 0 = 0xA1#8 then
          { valid := true, peripheralType := be32 buf 1, peripheralVersion := be16 buf 5 }
        else { valid := false, peripheralType := 0#32, peripheralVersion := 0#16 }) ∧
      t.out = [] ∧ OnlyOutputs s t) ∧
    (buf.length = 3 + s.cfg.cksumWidth.bytes →
      ∃ t, exec (.decodeStartOfStream buf) s = .next t ∧
      t.ret = .startOfStream
        (if byteAt buf 0 = 0xA2#8 then
          { valid := true, dataSize := be16 buf 1, streamChecksum := buf.drop 3 }
        else
          { valid := false, dataSize := 0#16,
            streamChecksum := List.replicate s.cfg.cksumWidth.bytes 0#8 }) ∧
      t.out = [] ∧ OnlyOutputs s t)

/-- On a byte string that is not exactly the fixed size of the kind, a codec operation is refused:
the functions are defined on no other size (R120), and the treatment `refuse` is the spec's own (93
U3). The last two clauses are the model's choice, not the spec's: a StartOfStream packet written as
a term with a checksum of another size is no packet of R93 and is refused (assumptions 19 and 26,
resting on 8), where raw bytes of another size arrive (assumption 16). -/
def Obligations.OtherSizesAreRefused : Prop :=
  ∀ (s : State) (buf : List Byte) (d : Word16),
    (buf.length ≠ 1 → exec (.decodePing buf) s = .refused .codecLength) ∧
    (buf.length ≠ 7 → exec (.decodePingResponse buf) s = .refused .codecLength) ∧
    (buf.length ≠ 3 + s.cfg.cksumWidth.bytes →
      exec (.decodeStartOfStream buf) s = .refused .codecLength) ∧
    (buf.length ≠ s.cfg.cksumWidth.bytes →
      exec (.encodeStartOfStream d buf) s = .refused .codecLength) ∧
    (buf.length ≠ 4 → exec (.sos4 d buf) s = .refused .codecLength) ∧
    (buf.length ≠ 16 → exec (.sos16 d buf) s = .refused .codecLength)

/-- A wire packet reaches the port of its receiver, its bytes in the order of its format (R91 to
R94), and what its decode rule reads from it is returned. That a packet instruction is its arrival,
and that arrival uses up credit, is the model's choice (assumption 8). -/
def Obligations.PacketsReachTheirReceiver : Prop :=
  ∀ s : State,
    (∃ t, exec .ping s = .next t ∧ t.bus = { s.bus with pRx := s.bus.pRx ++ [0xA0#8] } ∧
      t.ret = .ping { valid := true } ∧ OnlyTransport s t) ∧
    (∀ ty v, ∃ t, exec (.pingResp ty v) s = .next t ∧
      t.bus = { s.bus with
        cRx := s.bus.cRx ++ ([0xA1#8] ++ put32 ty ++ put16 v), credit := s.bus.credit - 7 } ∧
      t.ret = .pingResponse
        { valid := true, peripheralType := ty, peripheralVersion := v } ∧
      OnlyTransport s t) ∧
    (∀ (d : Word16) (ck : List Byte), ck.length = 4 → ∃ t, exec (.sos4 d ck) s = .next t ∧
      t.bus = { s.bus with
        cRx := s.bus.cRx ++ ([0xA2#8] ++ put16 d ++ ck), credit := s.bus.credit - 7 } ∧
      t.ret = .startOfStream { valid := true, dataSize := d, streamChecksum := ck } ∧
      OnlyTransport s t) ∧
    (∀ (d : Word16) (ck : List Byte), ck.length = 16 → ∃ t, exec (.sos16 d ck) s = .next t ∧
      t.bus = { s.bus with
        cRx := s.bus.cRx ++ ([0xA2#8] ++ put16 d ++ ck), credit := s.bus.credit - 19 } ∧
      t.ret = .startOfStream { valid := true, dataSize := d, streamChecksum := ck } ∧
      OnlyTransport s t) ∧
    (∀ d : Byte, ∃ t, exec (.data d) s = .next t ∧
      t.bus = { s.bus with cRx := s.bus.cRx ++ [d], credit := s.bus.credit - 1 } ∧
      t.ret = .none ∧ OnlyTransport s t)

/-! ### The trace -/

/-- A step runs the next item of the trace: an operation or the packet its raw bytes decode to as
`exec` says, with that item gone from the trace; a bus step as `execBus` says; bytes that decode to
no packet of the expected format reach their receiver's port all the same, with neither agent
changed; and with no item left nothing happens but that the outputs are cleared. The trace is the
model's own device (assumption 1); what raw bytes that are no packet do and return is assumption 16,
and that an arrival uses up credit assumption 8, both the model's choice. -/
def Obligations.StepRunsTheNextItem : Prop :=
  ∀ (s : State) (rest : List Stimulus),
    (∀ f bytes i, s.inputs = .wire f bytes :: rest → decode f bytes = .ok i →
      step s = exec i { s with inputs := rest }) ∧
    (∀ f bytes e, s.inputs = .wire f bytes :: rest → decode f bytes = .error e →
      ∃ t, step s = .next t ∧ OnlyTransport { s with inputs := rest } t ∧
        t.bus = (if f = .ping then { s.bus with pRx := s.bus.pRx ++ bytes }
          else { s.bus with
            cRx := s.bus.cRx ++ bytes, credit := s.bus.credit - bytes.length }) ∧
        t.ret = (if bytes.length = formatSize f then recordRead f bytes else .none)) ∧
    (∀ i, s.inputs = .op i :: rest → step s = exec i { s with inputs := rest }) ∧
    (∀ b, s.inputs = .bus b :: rest → step s = execBus b { s with inputs := rest }) ∧
    (s.inputs = [] → step s = .next { s with out := [], ret := .none })

/-- A table word placed for the fetch is the instruction the very next step runs. A table word is
numbered as R10 and R102 number a packet, byte 0 the most significant; which format it is read as is
the model's choice (assumption 7). No rule gives a trace or a fetch: that `State.withFetchWord` puts
the packet at the head of the trace, and that a step takes the next item off it, is the model's own
device (assumption 1). -/
def Obligations.PlacedWordRunsNext : Prop :=
  ∀ (s : State) (nbits w : Nat) (i : Instr), decodeTableWord nbits w = some i →
    step (s.withFetchWord nbits w) = exec i s

/-! ### Reset and invariants -/

/-- The state after reset: the tables of R35 and R47 and the empty bus of R80. Of these values the
source states `state` and `connected` alone; the rest are the spec's decisions D10, D11 and D13,
and the parameters and the peripheral's identity are the model's (assumptions 4 and 5). -/
def Obligations.ResetValues : Prop :=
  let s := State.reset
  s.c.state = .idle ∧ s.c.connected = false ∧ s.c.deviceType = 0#32 ∧
  s.c.deviceVersion = 0#16 ∧ s.c.pendingReceiver = none ∧ s.c.capacity = 0#17 ∧
  s.c.rxbuf = [] ∧ s.c.dataLoc = 0#17 ∧ s.c.expectedDataSize = 0#16 ∧
  s.c.expectedChecksum = List.replicate s.cfg.cksumWidth.bytes 0#8 ∧ s.c.lastPingMs = 0#32 ∧
  s.c.lastBytesReceivedMs = 0#32 ∧ s.c.timeoutPeriod = s.cfg.timeoutDefaultMs ∧
  s.c.reqMark = 0#17 ∧
  s.p.state = .idle ∧ s.p.outLen = 0#16 ∧ s.p.outbuf = [] ∧ s.p.sendCursor = 0#16 ∧
  s.bus.c2pWire = [] ∧ s.bus.p2cWire = [] ∧ s.bus.cRx = [] ∧ s.bus.pRx = [] ∧
  s.bus.credit = 0 ∧ s.bus.reqEvents = 0

/-- The invariants hold at reset (R32: "true after reset"). -/
def Obligations.ResetMeetsTheInvariant : Prop := Inv State.reset

/-- Every step keeps the invariants of both agents (R25, R30, R32, R43, R44), from every state that
meets them, whether or not a run reaches it. R32 is the spec's own derivation, the request mark its
decision D13, the widths D29; that the stored bytes are exactly those below the cursor is how the
model holds a buffer (assumption 3). -/
def Obligations.StepKeepsTheInvariant : Prop :=
  ∀ s t : State, Inv s → step s = .next t → Inv t

/-- No step from a state that meets the invariants makes a buffer access outside its space (R13:
"made by no rule"): it never faults. That such an access would be a fault is the model's choice
(assumption 17). -/
def Obligations.InvariantStatesNeverFault : Prop :=
  ∀ s : State, Inv s → Safe (step s)

/-- Every step keeps both buffer spaces in canonical form, from every state whatsoever. The form is
how the model holds a buffer (assumption 3). -/
def Obligations.StepKeepsBuffersCanonical : Prop :=
  ∀ s t : State, s.c.rxbuf.wf = true → s.p.outbuf.wf = true → step s = .next t →
    t.c.rxbuf.wf = true ∧ t.p.outbuf.wf = true

/-- No step writes the open static parameters (R34); the other parameters are constants. -/
def Obligations.StepKeepsStaticParameters : Prop :=
  ∀ s t : State, step s = .next t → t.cfg = s.cfg

/-! ### The host operations of the controller -/

/-- `C.NEW` gives every register of the controller its reset value, for every value of the open
parameters, and touches neither the bus nor the peripheral (R210, R35; the values are the spec's
decisions D10, D11 and D13). -/
def Obligations.ConstructionResetsTheController : Prop :=
  ∀ s : State, ∃ t, exec .cNew s = .next t ∧
    t.c = { state := .idle, connected := false, deviceType := 0#32, deviceVersion := 0#16,
            pendingReceiver := none, capacity := 0#17, rxbuf := [], dataLoc := 0#17,
            expectedDataSize := 0#16,
            expectedChecksum := List.replicate s.cfg.cksumWidth.bytes 0#8,
            lastPingMs := 0#32, lastBytesReceivedMs := 0#32,
            timeoutPeriod := s.cfg.timeoutDefaultMs, reqMark := 0#17 } ∧
    t.bus = s.bus ∧ t.out = [] ∧ t.ret = .none ∧ PeripheralSide s t

/-- `C.REQUEST_DATA` with no request pending, in every state and connected or not: it only sets the
pending receiver (R211; that it is accepted everywhere is the spec's decision D28). -/
def Obligations.RequestDataSetsThePendingReceiver : Prop :=
  ∀ (s : State) (cb : Handle), s.c.pendingReceiver = none →
    ∃ t, exec (.cRequestData cb) s = .next t ∧
      t.c = { s.c with pendingReceiver := some cb } ∧ t.bus = s.bus ∧ t.out = [] ∧
      t.ret = .none ∧ t.free = s.free ∧ SameBytes .rxbuf s t ∧ PeripheralSide s t

/-- A second `C.REQUEST_DATA` while one is pending has no defined effect and is refused (R217; the
treatment is the spec's decision D26). -/
def Obligations.SecondRequestIsRefused : Prop :=
  ∀ (s : State) (cb cb' : Handle), s.c.pendingReceiver = some cb' →
    exec (.cRequestData cb) s = .refused .requestPending

/-- `C.SET_TIMEOUT_PERIOD`, for every 32-bit value in every state (R212; decision D33). -/
def Obligations.SetTimeoutPeriodWritesOneRegister : Prop :=
  ∀ (s : State) (d : Word32), ∃ t, exec (.cSetTimeoutPeriod d) s = .next t ∧
    t.c = { s.c with timeoutPeriod := d } ∧ t.bus = s.bus ∧ t.out = [] ∧ t.ret = .none ∧
    t.free = s.free ∧ SameBytes .rxbuf s t ∧ PeripheralSide s t

/-- `C.CONNECTED` returns `C.connected` and changes nothing (R213). -/
def Obligations.ConnectedReadsTheFlag : Prop :=
  ∀ s : State, ∃ t, exec .cConnected s = .next t ∧ t.ret = .bool s.c.connected ∧ t.out = [] ∧
    OnlyOutputs s t

/-- `C.GET_STATE`, `C.DEVICE_TYPE` and `C.DEVICE_VERSION` return their registers and change nothing
(R214, R216; the numbers of the states are decision D24, the two identity reads decision D27). -/
def Obligations.StatusReadsReturnTheRegisters : Prop :=
  (∀ s : State,
    (∃ t, exec .cGetState s = .next t ∧ t.ret = .ctrlState s.c.state ∧ t.out = [] ∧
      OnlyOutputs s t) ∧
    (∃ t, exec .cDeviceType s = .next t ∧ t.ret = .word32 s.c.deviceType ∧ t.out = [] ∧
      OnlyOutputs s t) ∧
    (∃ t, exec .cDeviceVersion s = .next t ∧ t.ret = .word16 s.c.deviceVersion ∧ t.out = [] ∧
      OnlyOutputs s t)) ∧
  [CtrlState.idle, .awaitingPingResponse, .awaitingStartOfStream, .receivingData].map
    (fun x => (ctrlStateCode x).toNat) = [0, 1, 2, 3]

/-! ### C.UPDATE -/

/-- R133: a poll in Idle at most 10 ms after the last byte ends after the pull and the stamp; every
byte pulled is discarded (R32 (b)), and a pending request and a due heartbeat both wait. The
boundary is decision D9. That the poll's own `rx` lowers the credit is the model's choice
(assumption 8). -/
def Obligations.IdlePollInNoiseWindowIsDeferred : Prop :=
  ∀ (s : State) (now : Word32) (rx : List Byte) (st : Status), CtrlInv s →
    s.c.state = .idle → (sinceLastByte now rx s).toNat ≤ 10 →
    ∃ t, exec (.cUpdate now rx st) s = .next t ∧
      t.c = { s.c with lastBytesReceivedMs := stampAfter now rx s } ∧
      t.bus = drainedBus s rx ∧ t.out = [] ∧ t.ret = .none ∧ t.free = s.free ∧
      SameBytes .rxbuf s t ∧ PeripheralSide s t

/-- R136: a poll in Idle that is not deferred serves a pending request, before a heartbeat and
whether or not a peripheral is known (decision D28): the header's read-request, the buffer reset to
`SOS_SIZE`, and AwaitingStartOfStream. What a read-request adds to the bus is decision D25 (R85). -/
def Obligations.IdlePollServesThePendingRequest : Prop :=
  ∀ (s : State) (now : Word32) (rx : List Byte) (st : Status) (cb : Handle), CtrlInv s →
    s.c.state = .idle → 10 < (sinceLastByte now rx s).toNat → s.c.pendingReceiver = some cb →
    ∃ t, exec (.cUpdate now rx st) s = .next t ∧
      t.out = [.requestFrom s.cfg.periphAddr (3 + s.cfg.cksumWidth.bytes)] ∧
      t.c = { s.c with
        state := .awaitingStartOfStream, dataLoc := 0#17, rxbuf := []
        capacity := BitVec.ofNat 17 (3 + s.cfg.cksumWidth.bytes) } ∧
      t.bus = { s.bus with
        credit := s.bus.credit + (3 + s.cfg.cksumWidth.bytes)
        reqEvents := s.bus.reqEvents + 1 } ∧
      t.ret = .none ∧ PeripheralSide s t

/-- R137 to R139: a poll in Idle that is not deferred, with no request pending, at least 20 ms after
the last valid PingResponse, writes a Ping. A status of the timeout class disconnects and stays in
Idle; any other leads to AwaitingPingResponse with the buffer reset to 7 bytes. `last_ping_ms` is
not written. The boundaries are decision D9, the classes of status D15, and that only an `OK` write
reaches the wire D25. -/
def Obligations.IdlePollSendsADuePing : Prop :=
  ∀ (s : State) (now : Word32) (rx : List Byte) (st : Status), CtrlInv s →
    s.c.state = .idle → 10 < (sinceLastByte now rx s).toNat → s.c.pendingReceiver = none →
    20 ≤ (elapsed now s.c.lastPingMs).toNat →
    ∃ t, exec (.cUpdate now rx st) s = .next t ∧
      t.out = [.write s.cfg.periphAddr [0xA0#8]] ∧
      t.c = (if st = .timeout then { s.c with connected := false }
        else { s.c with
          state := .awaitingPingResponse, capacity := 7#17, dataLoc := 0#17, rxbuf := [] }) ∧
      t.bus = (if st = .ok then { s.bus with c2pWire := s.bus.c2pWire ++ [0xA0#8] } else s.bus) ∧
      (st = .timeout → t.free = s.free ∧ SameBytes .rxbuf s t) ∧
      t.ret = .none ∧ PeripheralSide s t

/-- R140: a poll in Idle that is neither deferred nor has anything due changes nothing. -/
def Obligations.IdlePollWithNothingDue : Prop :=
  ∀ (s : State) (now : Word32) (rx : List Byte) (st : Status), CtrlInv s →
    s.c.state = .idle → 10 < (sinceLastByte now rx s).toNat → s.c.pendingReceiver = none →
    (elapsed now s.c.lastPingMs).toNat < 20 →
    ∃ t, exec (.cUpdate now rx st) s = .next t ∧ t.out = [] ∧ t.ret = .none ∧ OnlyOutputs s t

/-- R134, R244: a poll in any non-Idle state more than `C.timeout_period` after the last byte
abandons the exchange without any event, whatever else the state holds: Idle, disconnected, the
buffer released, the pending receiver dropped, every other register kept. The boundary is decision
D9, that no arm runs in the same poll D12. -/
def Obligations.SilenceAbandonsTheExchange : Prop :=
  ∀ (s : State) (now : Word32) (rx : List Byte) (st : Status),
    s.c.state ≠ .idle → s.c.timeoutPeriod.toNat < (sinceLastByte now rx s).toNat →
    ∃ t, exec (.cUpdate now rx st) s = .next t ∧ t.out = [] ∧
      t.c = { s.c with
        state := .idle, connected := false, pendingReceiver := none
        capacity := 0#17, dataLoc := 0#17, rxbuf := [] } ∧
      t.bus = s.bus ∧ t.ret = .none ∧ PeripheralSide s t

/-- R141, R144: in AwaitingPingResponse and AwaitingStartOfStream a poll that leaves the frame
incomplete, within the liveness timeout (its boundary is decision D9), only stores what it pulled
and waits. That the poll's own `rx` lowers the credit is the model's choice (assumption 8). -/
def Obligations.IncompletePacketWaits : Prop :=
  ∀ (s : State) (now : Word32) (rx : List Byte) (st : Status), CtrlInv s →
    (s.c.state = .awaitingPingResponse ∨ s.c.state = .awaitingStartOfStream) →
    (sinceLastByte now rx s).toNat ≤ s.c.timeoutPeriod.toNat → ¬ frameFull rx s →
    ∃ t, exec (.cUpdate now rx st) s = .next t ∧ t.out = [] ∧
      t.c.unpulled = s.c.unpulled ∧ PullShown now rx s t ∧ t.bus = drainedBus s rx ∧
      t.ret = .none ∧ t.free = s.free ∧ PeripheralSide s t

/-- R142: a complete PingResponse that decodes to type 0 (a wrong tag, or the right tag and type 0)
clears `connected`, drops any pending receiver and returns to Idle, with no event; the buffer keeps
its bytes (decision D39). That the poll comes to decode at all is the phase order of decision D14,
with the boundary of the liveness timeout of D9. That the poll's own `rx` lowers the credit is the
model's choice (assumption 8). -/
def Obligations.InvalidPingResponseDisconnects : Prop :=
  ∀ (s : State) (now : Word32) (rx : List Byte) (st : Status), CtrlInv s →
    s.c.state = .awaitingPingResponse →
    (sinceLastByte now rx s).toNat ≤ s.c.timeoutPeriod.toNat → frameFull rx s →
    (decodePingResponse (frameAfter rx s)).peripheralType = 0#32 →
    ∃ t, exec (.cUpdate now rx st) s = .next t ∧ t.out = [] ∧
      t.c.unpulled =
        { s.c.unpulled with connected := false, pendingReceiver := none, state := .idle } ∧
      PullShown now rx s t ∧ t.bus = drainedBus s rx ∧ t.ret = .none ∧ t.free = s.free ∧
      PeripheralSide s t

/-- R143: a complete PingResponse with a non-zero type updates the identity, sets `connected`,
stamps `last_ping_ms` and returns to Idle; the pending receiver is untouched. The phases before it
are decisions D9 and D14. That the poll's own `rx` lowers the credit is the model's choice
(assumption 8). -/
def Obligations.ValidPingResponseConnects : Prop :=
  ∀ (s : State) (now : Word32) (rx : List Byte) (st : Status), CtrlInv s →
    s.c.state = .awaitingPingResponse →
    (sinceLastByte now rx s).toNat ≤ s.c.timeoutPeriod.toNat → frameFull rx s →
    (decodePingResponse (frameAfter rx s)).peripheralType ≠ 0#32 →
    ∃ t, exec (.cUpdate now rx st) s = .next t ∧ t.out = [] ∧
      t.c.unpulled =
        { s.c.unpulled with
          deviceType := (decodePingResponse (frameAfter rx s)).peripheralType
          deviceVersion := (decodePingResponse (frameAfter rx s)).peripheralVersion
          connected := true, lastPingMs := now, state := .idle } ∧
      PullShown now rx s t ∧ t.bus = drainedBus s rx ∧ t.ret = .none ∧ t.free = s.free ∧
      PeripheralSide s t

/-- R145: a complete StartOfStream that decodes to size 0 (a wrong tag, or the right tag and size 0)
clears `connected`, drops the pending receiver and returns to Idle, with no event; the buffer keeps
its bytes (decision D39). The phases before it are decisions D9 and D14. That the poll's own `rx`
lowers the credit is the model's choice (assumption 8). -/
def Obligations.InvalidStartOfStreamDropsTheRequest : Prop :=
  ∀ (s : State) (now : Word32) (rx : List Byte) (st : Status), CtrlInv s →
    s.c.state = .awaitingStartOfStream →
    (sinceLastByte now rx s).toNat ≤ s.c.timeoutPeriod.toNat → frameFull rx s →
    (decodeStartOfStream s.cfg.cksumWidth (frameAfter rx s)).dataSize = 0#16 →
    ∃ t, exec (.cUpdate now rx st) s = .next t ∧ t.out = [] ∧
      t.c.unpulled =
        { s.c.unpulled with connected := false, pendingReceiver := none, state := .idle } ∧
      PullShown now rx s t ∧ t.bus = drainedBus s rx ∧ t.ret = .none ∧ t.free = s.free ∧
      PeripheralSide s t

/-- R146: a complete StartOfStream with a non-zero size captures size and checksum, resizes the
buffer to the padded size and enters ReceivingData with no event; `connected` is unchanged. The
request mark is decision D13, the phases before it D9 and D14. That the poll's own `rx` lowers the
credit is the model's choice (assumption 8). -/
def Obligations.ValidStartOfStreamBeginsReceiving : Prop :=
  ∀ (s : State) (now : Word32) (rx : List Byte) (st : Status) (h : StartOfStreamRecord),
    CtrlInv s → s.c.state = .awaitingStartOfStream →
    (sinceLastByte now rx s).toNat ≤ s.c.timeoutPeriod.toNat → frameFull rx s →
    decodeStartOfStream s.cfg.cksumWidth (frameAfter rx s) = h → h.dataSize ≠ 0#16 →
    ∃ t, exec (.cUpdate now rx st) s = .next t ∧ t.out = [] ∧
      t.c = { s.c with
        lastBytesReceivedMs := stampAfter now rx s
        expectedDataSize := h.dataSize, expectedChecksum := h.streamChecksum
        capacity := BitVec.ofNat 17 ((h.dataSize.toNat + 31) / 32 * 32)
        dataLoc := 0#17, rxbuf := [], reqMark := 0#17, state := .receivingData } ∧
      t.bus = drainedBus s rx ∧ t.ret = .none ∧ PeripheralSide s t

/-- R174 to R176, R178: a full receive buffer whose first D bytes have the expected checksum gives
one `Complete` with the whole buffer, D and P, and ends the transfer. Which bytes the checksum
covers is decision D5, when the host sees the event D38. The boundary of the liveness timeout,
elapsed = `timeout_period`, is decision D9 (assumption 10). That the poll's own `rx` lowers the
credit is the model's choice (assumption 8). -/
def Obligations.MatchingTransferCompletes : Prop :=
  ∀ (s : State) (now : Word32) (rx : List Byte) (st : Status) (cb : Handle), CtrlInv s →
    s.c.state = .receivingData → s.c.pendingReceiver = some cb →
    (sinceLastByte now rx s).toNat ≤ s.c.timeoutPeriod.toNat → frameFull rx s →
    Config.cksum s.cfg.cksumWidth ((frameAfter rx s).take s.c.expectedDataSize.toNat) =
      s.c.expectedChecksum →
    ∃ t, exec (.cUpdate now rx st) s = .next t ∧
      t.out =
        [.complete cb (some (frameAfter rx s)) s.c.expectedDataSize s.c.capacity] ∧
      t.c = { s.c with
        lastBytesReceivedMs := stampAfter now rx s
        capacity := 0#17, dataLoc := 0#17, rxbuf := [], pendingReceiver := none
        state := .idle } ∧
      t.bus = drainedBus s rx ∧ t.ret = .none ∧ PeripheralSide s t

/-- R177, R178, R243: a full receive buffer whose first D bytes have another checksum gives one
`Complete` with no buffer and zero sizes, and ends the transfer; `connected` is unchanged. Which
bytes the checksum covers is decision D5, when the host sees the event D38. The boundary of the
liveness timeout, elapsed = `timeout_period`, is decision D9 (assumption 10). That the poll's own
`rx` lowers the credit is the model's choice (assumption 8). -/
def Obligations.MismatchingTransferFails : Prop :=
  ∀ (s : State) (now : Word32) (rx : List Byte) (st : Status) (cb : Handle), CtrlInv s →
    s.c.state = .receivingData → s.c.pendingReceiver = some cb →
    (sinceLastByte now rx s).toNat ≤ s.c.timeoutPeriod.toNat → frameFull rx s →
    Config.cksum s.cfg.cksumWidth ((frameAfter rx s).take s.c.expectedDataSize.toNat) ≠
      s.c.expectedChecksum →
    ∃ t, exec (.cUpdate now rx st) s = .next t ∧ t.out = [.complete cb none 0#16 0#17] ∧
      t.c = { s.c with
        lastBytesReceivedMs := stampAfter now rx s
        capacity := 0#17, dataLoc := 0#17, rxbuf := [], pendingReceiver := none
        state := .idle } ∧
      t.bus = drainedBus s rx ∧ t.ret = .none ∧ PeripheralSide s t

/-- R170, R173: in ReceivingData, with the buffer not full after the pull, one read-request of 32
bytes is issued if the cursor has reached the request mark and the mark is below the capacity, and
the mark moves on by 32; else the controller only waits. The mark and the one request a poll are
decision D13. The boundary of the liveness timeout, elapsed = `timeout_period`, is decision D9
(assumption 10). What a read-request adds to the bus, 32 to the credit and 1 to the request events,
is decision D25 (R85). That the poll's own `rx` lowers the credit is the model's choice (assumption
8). -/
def Obligations.ChunkRequestsFollowTheMark : Prop :=
  ∀ (s : State) (now : Word32) (rx : List Byte) (st : Status), CtrlInv s →
    s.c.state = .receivingData →
    (sinceLastByte now rx s).toNat ≤ s.c.timeoutPeriod.toNat → ¬ frameFull rx s →
    ∃ t, exec (.cUpdate now rx st) s = .next t ∧ PullShown now rx s t ∧ t.ret = .none ∧
      t.free = s.free ∧ PeripheralSide s t ∧
      (if s.c.reqMark.toNat ≤ (frameAfter rx s).length ∧
          s.c.reqMark.toNat < s.c.capacity.toNat then
        t.out = [.requestFrom s.cfg.periphAddr 32] ∧
        t.c.reqMark.toNat = s.c.reqMark.toNat + 32 ∧
        t.c.unpulled = { s.c.unpulled with reqMark := t.c.reqMark } ∧
        t.bus = { drainedBus s rx with
          credit := (drainedBus s rx).credit + 32, reqEvents := s.bus.reqEvents + 1 }
      else
        t.out = [] ∧ t.c.unpulled = s.c.unpulled ∧ t.bus = drainedBus s rx)

/-- R130, R250: a poll that reaches a next state emits at most one event in all, and it is a `Write`,
a `RequestFrom` or a `Complete`; it drains the controller's queue, keeps `timeout_period`, and
leaves the peripheral's side as it was. The order of the phases is decision D14. -/
def Obligations.PollEmitsAtMostOneEvent : Prop :=
  ∀ (s t : State) (now : Word32) (rx : List Byte) (st : Status),
    exec (.cUpdate now rx st) s = .next t →
    t.out.length ≤ 1 ∧ (∀ b, Event.send b ∉ t.out) ∧ t.bus.cRx = [] ∧
    t.bus.pRx = s.bus.pRx ∧ t.bus.p2cWire = s.bus.p2cWire ∧
    t.c.timeoutPeriod = s.c.timeoutPeriod ∧
    t.c.lastBytesReceivedMs = stampAfter now rx s ∧ PeripheralSide s t

/-- R147: over every step of the machine, the controller's state moves only as its transition table
says (with `C.NEW`, which goes to Idle from anywhere). The table is the spec's own derivation. -/
def Obligations.ControllerMovesAsTheTableSays : Prop :=
  ∀ s t : State, step s = .next t → t.c.state ≠ s.c.state →
    t.c.state = .idle ∨
    (s.c.state = .idle ∧
      (t.c.state = .awaitingPingResponse ∨ t.c.state = .awaitingStartOfStream)) ∨
    (s.c.state = .awaitingStartOfStream ∧ t.c.state = .receivingData)

/-- R22, R253: `C.connected` becomes true only in a step that accepts a PingResponse with the right
tag and a non-zero type, whose identity the registers then hold. -/
def Obligations.OnlyAValidPingResponseConnects : Prop :=
  ∀ s t : State, step s = .next t → s.c.connected = false → t.c.connected = true →
    s.c.state = .awaitingPingResponse ∧ t.c.state = .idle ∧
    byteAt (t.bytesFrom .rxbuf 0 7) 0 = 0xA1#8 ∧
    be32 (t.bytesFrom .rxbuf 0 7) 1 ≠ 0#32 ∧
    t.c.deviceType = be32 (t.bytesFrom .rxbuf 0 7) 1 ∧
    t.c.deviceVersion = be16 (t.bytesFrom .rxbuf 0 7) 5

/-- R179, R215: a step that emits a `Complete` is a poll in ReceivingData, hands back the pending
receiver's handle, and ends with Idle and no receiver pending. That the event stands with the state
already cleared is decision D38 (assumption 23). -/
def Obligations.CompleteEndsItsRequest : Prop :=
  ∀ (s t : State) (cb : Handle) (b : Option (List Byte)) (d : Word16) (p : Word17),
    step s = .next t → Event.complete cb b d p ∈ t.out →
    (∃ now rx st rest, s.inputs = .op (.cUpdate now rx st) :: rest) ∧
    s.c.state = .receivingData ∧ s.c.pendingReceiver = some cb ∧ t.c.state = .idle ∧
    t.c.pendingReceiver = none ∧ t.out = [.complete cb b d p]

/-- R179 over runs (the spec's own derivation): in any run, from any state, at most one `Complete`
is emitted for each `C.REQUEST_DATA` of the trace, and one more if a request was already pending at
the start. -/
def Obligations.AtMostOneCompletePerRequest : Prop :=
  ∀ (n : Nat) (s : State),
    ((runEvents n s).filter Event.isComplete).length ≤
      (s.inputs.filter isRequest).length + (if s.c.pendingReceiver = none then 0 else 1)

/-- R20, R103, R121: an instruction writes registers and buffer bytes of the agent it is an
operation of, and of no other; a packet and a codec function write none. -/
def Obligations.AgentsShareNoRegister : Prop :=
  ∀ (i : Instr) (s t : State), exec i s = .next t →
    (agentOf i ≠ .controller → ControllerSide s t) ∧
    (agentOf i ≠ .peripheral → PeripheralSide s t)

/-- R29: `C.timeout_period` is written by `C.SET_TIMEOUT_PERIOD` and `C.NEW` alone. -/
def Obligations.TimeoutPeriodHasTwoWriters : Prop :=
  ∀ s t : State, step s = .next t → t.c.timeoutPeriod ≠ s.c.timeoutPeriod →
    ∃ rest, s.inputs = .op (.cSetTimeoutPeriod t.c.timeoutPeriod) :: rest ∨
      s.inputs = .op .cNew :: rest

/-- R171: the padded size is the smallest multiple of 32 that is at least the declared size. -/
def Obligations.PaddedSizeIsTheLeastMultiple : Prop :=
  ∀ d : Word16, d ≠ 0#16 →
    (pad32 d).toNat % 32 = 0 ∧ d.toNat ≤ (pad32 d).toNat ∧
    (∀ m, m % 32 = 0 → d.toNat ≤ m → (pad32 d).toNat ≤ m) ∧
    (pad32 d).toNat = (d.toNat + 31) / 32 * 32 ∧
    32 ≤ (pad32 d).toNat ∧ (pad32 d).toNat ≤ 65536

/-! ### The peripheral -/

/-- `P.NEW`: the identity takes the arguments, the other registers their reset values, and the
request handler is registered; nothing is emitted (R219, R47; the values are decision D11). -/
def Obligations.ConstructionResetsThePeripheral : Prop :=
  ∀ (s : State) (ty : Word32) (v : Word16), ∃ t, exec (.pNew ty v) s = .next t ∧
    t.p = { state := .idle, peripheralType := ty, peripheralVersion := v, outLen := 0#16,
            outbuf := [], sendCursor := 0#16 } ∧
    t.bus = { s.bus with onRequestRegistered := true } ∧ t.out = [] ∧ t.ret = .none ∧
    ControllerSide s t

/-- R42: the peripheral's identity is set by its construction from its arguments, and written by
nothing else. -/
def Obligations.IdentityIsSetByConstruction : Prop :=
  (∀ (s : State) (ty : Word32) (v : Word16), ∃ t, exec (.pNew ty v) s = .next t ∧
    t.p.peripheralType = ty ∧ t.p.peripheralVersion = v) ∧
  (∀ s t : State, step s = .next t →
    (t.p.peripheralType ≠ s.p.peripheralType ∨
      t.p.peripheralVersion ≠ s.p.peripheralVersion) →
    ∃ rest, s.inputs = .op (.pNew t.p.peripheralType t.p.peripheralVersion) :: rest)

/-- R191: the request event at an Idle peripheral takes the payload into `OUTBUF`, sends the header
with its size and its checksum, and enters SendingData (the provider's domain is decision D22). That
the header joins the peripheral's wire is decision D25 (R83; assumption 20). -/
def Obligations.RequestEventBeginsATransfer : Prop :=
  ∀ (s : State) (bytes : List Byte) (length : Nat), s.p.state = .idle → length ≤ 65535 →
    length ≤ bytes.length →
    ∃ t, exec (.pOnRequest bytes length) s = .next t ∧
      t.p.state = .sendingData ∧ t.p.outLen.toNat = length ∧ t.p.sendCursor = 0#16 ∧
      t.bytesFrom .outbuf 0 length = bytes.take length ∧
      t.p.peripheralType = s.p.peripheralType ∧
      t.p.peripheralVersion = s.p.peripheralVersion ∧
      t.out = [.send ([0xA2#8] ++ put16 (BitVec.ofNat 16 length) ++
        Config.cksum s.cfg.cksumWidth (bytes.take length))] ∧
      t.bus = { s.bus with
        p2cWire := s.bus.p2cWire ++ ([0xA2#8] ++ put16 (BitVec.ofNat 16 length) ++
          Config.cksum s.cfg.cksumWidth (bytes.take length)) } ∧
      t.ret = .none ∧ ControllerSide s t

/-- R192: the request event at a peripheral in SendingData has no effect, whatever a provider would
return (decision D18). -/
def Obligations.RequestEventIsIgnoredWhileSending : Prop :=
  ∀ (s : State) (bytes : List Byte) (length : Nat), s.p.state = .sendingData →
    ∃ t, exec (.pOnRequest bytes length) s = .next t ∧ t.out = [] ∧ t.ret = .none ∧
      OnlyOutputs s t

/-- R191, 93 U6: at an Idle peripheral a provider result of more than 65535 bytes, or of fewer bytes
than its length says, is refused (decision D22). -/
def Obligations.ProviderOutsideItsDomainIsRefused : Prop :=
  ∀ (s : State) (bytes : List Byte) (length : Nat), s.p.state = .idle →
    (65535 < length ∨ bytes.length < length) →
    exec (.pOnRequest bytes length) s = .refused .providerDomain

/-- R194 to R197 in Idle: exactly one byte, and that a Ping, is answered with the identity; anything
else is drained without an answer (decision D19); no register changes. That the answer joins the
peripheral's wire is decision D25 (R83; assumption 20): a claim in the reference bus. -/
def Obligations.IdlePeripheralAnswersALonePing : Prop :=
  ∀ (s : State) (rx : List Byte), s.p.state = .idle →
    ∃ t, exec (.pUpdate rx) s = .next t ∧ t.c = s.c ∧ t.p = s.p ∧ t.free = s.free ∧
      SameProgram s t ∧ SameMemory s t ∧ t.ret = .none ∧
      (if pulledByPeripheral s rx = [0xA0#8] then
        t.out = [.send ([0xA1#8] ++ put32 s.p.peripheralType ++ put16 s.p.peripheralVersion)] ∧
        t.bus = { drainedPeripheralBus s with
          p2cWire := s.bus.p2cWire ++
            ([0xA1#8] ++ put32 s.p.peripheralType ++ put16 s.p.peripheralVersion) }
      else t.out = [] ∧ t.bus = drainedPeripheralBus s)

/-- R195, R198 to R200 in SendingData: after the answer to a lone Ping, a full chunk of 32 bytes, or
the exact tail and the release, or nothing and the release; every send reaches the wire in that
order. One chunk a poll is decision D20, the case of 0 bytes left D21. That every send joins the
peripheral's wire is decision D25 (R83; assumption 20): a claim in the reference bus. -/
def Obligations.SendingPeripheralSendsOneChunk : Prop :=
  ∀ (s : State) (rx : List Byte) (answer sent : List Byte), s.p.state = .sendingData →
    answer = (if pulledByPeripheral s rx = [0xA0#8] then
      [0xA1#8] ++ put32 s.p.peripheralType ++ put16 s.p.peripheralVersion else []) →
    sent = s.bytesFrom .outbuf s.p.sendCursor.toNat
      (min 32 (s.p.outLen.toNat - s.p.sendCursor.toNat)) →
    ∃ t, exec (.pUpdate rx) s = .next t ∧
      t.out = (if answer = [] then [] else [.send answer]) ++
        (if sent = [] then [] else [.send sent]) ∧
      t.bus = { drainedPeripheralBus s with p2cWire := s.bus.p2cWire ++ answer ++ sent } ∧
      (if 32 ≤ s.p.outLen.toNat - s.p.sendCursor.toNat then
        t.p = { s.p with sendCursor := s.p.sendCursor + 32#16 } ∧ SameBytes .outbuf s t
      else t.p = { s.p with
        state := .idle, outLen := 0#16, sendCursor := 0#16, outbuf := [] }) ∧
      t.ret = .none ∧ ControllerSide s t

/-- R191, R198 to R200 over a whole transfer: from Idle with nothing waiting at its port, the
peripheral sends the header and then exactly the payload, byte for byte, and is back in Idle after
`length / 32 + 1` polls and not before. It rests on decisions D18 and D20 to D22, the wire on D25.
-/
def Obligations.PeripheralStreamsExactlyItsPayload : Prop :=
  ∀ (s : State) (payload : List Byte), s.p.state = .idle → s.bus.pRx = [] →
    payload.length ≤ 65535 →
    ∃ t u, exec (.pOnRequest payload payload.length) s = .next t ∧
      peripheralPolls (payload.length / 32 + 1) t = .next u ∧
      u.p.state = .idle ∧
      u.bus.p2cWire = s.bus.p2cWire ++
        encodeStartOfStream (BitVec.ofNat 16 payload.length)
          (Config.cksum s.cfg.cksumWidth payload) ++ payload ∧
      ControllerSide s u ∧
      (∀ n ≤ payload.length / 32, ∃ v, peripheralPolls n t = .next v ∧
        v.p.state = .sendingData ∧ v.p.sendCursor.toNat = 32 * n)

/-! ### Transfers and the transport -/

/-- R131, R170 to R178 over a whole reception: however the bytes of a padded buffer are cut into
non-empty arrivals, one a poll, the controller ends in Idle with no receiver pending, and the last
poll emits the one `Complete`: with exactly those bytes if their first D have the expected checksum,
else with none. It rests on decisions D5, D9, D13 and D14, and that a poll's `rx` is an arrival is
the model's choice (assumption 8). -/
def Obligations.PollsDeliverTheTransfer : Prop :=
  ∀ (s : State) (polls : List (Word32 × List Byte)) (cb : Handle), CtrlInv s →
    s.c.state = .receivingData → s.c.dataLoc = 0#17 → s.bus.cRx = [] →
    s.c.pendingReceiver = some cb → (∀ q ∈ polls, q.2 ≠ []) →
    (polls.map Prod.snd).flatten.length = s.c.capacity.toNat →
    ∃ t, controllerPolls polls s = .next t ∧ t.c.state = .idle ∧
      t.c.pendingReceiver = none ∧ t.c.capacity = 0#17 ∧ t.c.connected = s.c.connected ∧
      t.out =
        (if Config.cksum s.cfg.cksumWidth
            ((polls.map Prod.snd).flatten.take s.c.expectedDataSize.toNat) =
              s.c.expectedChecksum then
          [.complete cb (some (polls.map Prod.snd).flatten) s.c.expectedDataSize s.c.capacity]
        else [.complete cb none 0#16 0#17])

/-- A DATA byte that reaches the controller's port before a poll counts as one that arrives with the
poll (R69; that a poll's `rx` is an arrival is the model's choice, assumption 8). -/
def Obligations.EarlierArrivalsArePulled : Prop :=
  ∀ (s : State) (d : Byte) (now : Word32) (rx : List Byte) (st : Status), s.bus.cRx = [] →
    ∃ t, exec (.data d) s = .next t ∧
      exec (.cUpdate now rx st) t = exec (.cUpdate now (d :: rx) st) s

/-- The source's scenario 1 in the reference bus, for every identity with a non-zero type: from an
Idle controller whose Ping is due, an Idle peripheral and an empty bus, the Ping, its delivery, the
peripheral's poll, the delivery of the 7 bytes and the controller's next poll connect the controller
to the peripheral's identity. The bus is decision D25, the thresholds D9. -/
def Obligations.DiscoveryConnectsToThePeripheral : Prop :=
  ∀ (s : State) (now now' : Word32), CtrlInv s → s.c.state = .idle → s.p.state = .idle →
    s.c.pendingReceiver = none → s.bus.c2pWire = [] → s.bus.p2cWire = [] → s.bus.cRx = [] →
    s.bus.pRx = [] → s.p.peripheralType ≠ 0#32 →
    10 < (elapsed now s.c.lastBytesReceivedMs).toNat →
    20 ≤ (elapsed now s.c.lastPingMs).toNat →
    ∃ t, andThen (exec (.cUpdate now [] .ok) s) (fun s₁ =>
        andThen (execBus .deliverC2P s₁) fun s₂ =>
        andThen (exec (.pUpdate []) s₂) fun s₃ =>
        andThen (deliveries 7 s₃) fun s₄ => exec (.cUpdate now' [] .ok) s₄) = .next t ∧
      t.c.state = .idle ∧ t.c.connected = true ∧
      t.c.deviceType = s.p.peripheralType ∧ t.c.deviceVersion = s.p.peripheralVersion ∧
      t.c.lastPingMs = now' ∧ t.p = s.p ∧ t.bus.c2pWire = [] ∧ t.bus.p2cWire = [] ∧
      t.bus.cRx = [] ∧ t.bus.pRx = []

/-- R82, R84: a delivery moves the head byte of its wire to the tail of the receiver's queue, and
towards the controller lowers the credit, never below 0; with the wire empty it is not enabled. The
reference bus is the spec's decision D25. That a step which is not enabled is refused is the model's
choice (assumption 15). -/
def Obligations.DeliveryMovesTheHeadByte : Prop :=
  ∀ s : State,
    (∀ b rest, s.bus.c2pWire = b :: rest → ∃ t, execBus .deliverC2P s = .next t ∧
      t.bus = { s.bus with c2pWire := rest, pRx := s.bus.pRx ++ [b] } ∧ t.ret = .none ∧
      OnlyTransport s t) ∧
    (∀ b rest, s.bus.p2cWire = b :: rest → ∃ t, execBus .deliverP2C s = .next t ∧
      t.bus = { s.bus with
        p2cWire := rest, cRx := s.bus.cRx ++ [b], credit := s.bus.credit - 1 } ∧
      t.ret = .none ∧ OnlyTransport s t) ∧
    (s.bus.c2pWire = [] →
      execBus .deliverC2P s = .refused (.busStepNotEnabled .deliverC2P)) ∧
    (s.bus.p2cWire = [] →
      execBus .deliverP2C s = .refused (.busStepNotEnabled .deliverP2C))

/-- R77, R84 over many deliveries: bytes reach the controller in the order written, each exactly
once (decision D25). -/
def Obligations.DeliveriesKeepTheOrder : Prop :=
  ∀ (n : Nat) (s : State), n ≤ s.bus.p2cWire.length →
    ∃ t, deliveries n s = .next t ∧ t.bus.cRx = s.bus.cRx ++ s.bus.p2cWire.take n ∧
      t.bus.p2cWire = s.bus.p2cWire.drop n ∧ t.bus.credit = s.bus.credit - n ∧
      t.c = s.c ∧ t.p = s.p

/-- R86, R192: a pending request event fires once: the count falls by one and the peripheral runs
`P.ON_REQUEST`; in SendingData that has no other effect; with none pending, or with no handler
registered (in no run, assumption 14), the step is not enabled (decision D25). That a step which is
not enabled is refused is the model's choice (assumption 15). -/
def Obligations.RequestEventFiresOnce : Prop :=
  ∀ (s : State) (bytes : List Byte) (length : Nat),
    (0 < s.bus.reqEvents → s.bus.onRequestRegistered = true →
      execBus (.fireRequest bytes length) s =
        exec (.pOnRequest bytes length)
          { s with bus := { s.bus with reqEvents := s.bus.reqEvents - 1 } }) ∧
    (0 < s.bus.reqEvents → s.bus.onRequestRegistered = true → s.p.state = .sendingData →
      ∃ t, execBus (.fireRequest bytes length) s = .next t ∧
        t.bus = { s.bus with reqEvents := s.bus.reqEvents - 1 } ∧ t.ret = .none ∧
        OnlyTransport s t) ∧
    ((s.bus.reqEvents = 0 ∨ s.bus.onRequestRegistered = false) →
      execBus (.fireRequest bytes length) s =
      .refused (.busStepNotEnabled (.fireRequest bytes length)))

/-- R87: FILL brings a byte of any value against credit, exactly when the peripheral is Idle, its
wire is empty and no request event is pending; else it is not enabled (decision D25). That a step
which is not enabled is refused is the model's choice (assumption 15). -/
def Obligations.FillNeedsCreditAndSilence : Prop :=
  ∀ (s : State) (b : Byte),
    (0 < s.bus.credit → s.bus.p2cWire = [] → s.bus.reqEvents = 0 → s.p.state = .idle →
      ∃ t, execBus (.fill b) s = .next t ∧
        t.bus = { s.bus with cRx := s.bus.cRx ++ [b], credit := s.bus.credit - 1 } ∧
        t.ret = .none ∧ OnlyTransport s t) ∧
    ((s.bus.credit = 0 ∨ s.bus.p2cWire ≠ [] ∨ 0 < s.bus.reqEvents ∨
        s.p.state = .sendingData) →
      execBus (.fill b) s = .refused (.busStepNotEnabled (.fill b)))
end

