-- ==== Sys2Proof/Laws/Codec.lean ====
section
/-! SUPPORT. The big-endian helpers (30_encoding.md R95) as numbers, and that taking a value apart
and putting it together again are inverse. -/

namespace Sys2Proof

theorem toNat_append_byte (a b : Byte) : (a ++ b).toNat = a.toNat * 256 + b.toNat := by
  rw [BitVec.toNat_append, ← Nat.shiftLeft_add_eq_or_of_lt (by omega), Nat.shiftLeft_eq]

theorem toNat_append_word (a b : Word16) : (a ++ b).toNat = a.toNat * 65536 + b.toNat := by
  rw [BitVec.toNat_append, ← Nat.shiftLeft_add_eq_or_of_lt (by omega), Nat.shiftLeft_eq]

theorem append_extract_word16 (v : Word16) : v.extractLsb' 8 8 ++ v.extractLsb' 0 8 = v := by
  have h := v.isLt
  apply BitVec.eq_of_toNat_eq
  rw [toNat_append_byte]
  simp [Nat.shiftRight_eq_div_pow]
  omega

theorem append_extract_word32 (v : Word32) :
    (v.extractLsb' 24 8 ++ v.extractLsb' 16 8) ++ (v.extractLsb' 8 8 ++ v.extractLsb' 0 8) =
      v := by
  have h := v.isLt
  apply BitVec.eq_of_toNat_eq
  rw [toNat_append_word, toNat_append_byte, toNat_append_byte]
  simp [Nat.shiftRight_eq_div_pow]
  omega

theorem put16_append (a b : Byte) : put16 (a ++ b) = [a, b] := by
  have ha := a.isLt
  have hb := b.isLt
  unfold put16
  congr 1
  · apply BitVec.eq_of_toNat_eq
    simp [Nat.shiftRight_eq_div_pow]
    rw [toNat_append_byte]
    omega
  · congr 1
    apply BitVec.eq_of_toNat_eq
    simp
    rw [toNat_append_byte]
    omega

end Sys2Proof
end

