-- ==== Sys2Proof/Laws/State.lean ====
section
/-! SUPPORT. One lemma for each field of the state under each named update, true by unfolding the
update once, so that no later proof unfolds a record update. -/

namespace Sys2Proof.Machine

variable (s : State)

/-! ### State.start -/

@[simp] theorem start_c : (s.start).c = s.c := rfl
@[simp] theorem start_p : (s.start).p = s.p := rfl
@[simp] theorem start_bus : (s.start).bus = s.bus := rfl
@[simp] theorem start_cfg : (s.start).cfg = s.cfg := rfl
@[simp] theorem start_inputs : (s.start).inputs = s.inputs := rfl
@[simp] theorem start_out : (s.start).out = [] := rfl
@[simp] theorem start_ret : (s.start).ret = .none := rfl
@[simp] theorem start_free : (s.start).free = s.free := rfl

/-! ### State.returning -/

@[simp] theorem returning_c (r : Ret) : (s.returning r).c = s.c := rfl
@[simp] theorem returning_p (r : Ret) : (s.returning r).p = s.p := rfl
@[simp] theorem returning_bus (r : Ret) : (s.returning r).bus = s.bus := rfl
@[simp] theorem returning_cfg (r : Ret) : (s.returning r).cfg = s.cfg := rfl
@[simp] theorem returning_inputs (r : Ret) : (s.returning r).inputs = s.inputs := rfl
@[simp] theorem returning_out (r : Ret) : (s.returning r).out = s.out := rfl
@[simp] theorem returning_ret (r : Ret) : (s.returning r).ret = r := rfl
@[simp] theorem returning_free (r : Ret) : (s.returning r).free = s.free := rfl

/-! ### State.emit -/

@[simp] theorem emit_c (e : Event) : (s.emit e).c = s.c := rfl
@[simp] theorem emit_p (e : Event) : (s.emit e).p = s.p := rfl
@[simp] theorem emit_bus (e : Event) : (s.emit e).bus = s.bus := rfl
@[simp] theorem emit_cfg (e : Event) : (s.emit e).cfg = s.cfg := rfl
@[simp] theorem emit_inputs (e : Event) : (s.emit e).inputs = s.inputs := rfl
@[simp] theorem emit_out (e : Event) : (s.emit e).out = s.out ++ [e] := rfl
@[simp] theorem emit_ret (e : Event) : (s.emit e).ret = s.ret := rfl
@[simp] theorem emit_free (e : Event) : (s.emit e).free = s.free := rfl

/-! ### emitRequestFrom -/

@[simp] theorem emitRequestFrom_c (n : Nat) : (emitRequestFrom n s).c = s.c := rfl
@[simp] theorem emitRequestFrom_p (n : Nat) : (emitRequestFrom n s).p = s.p := rfl
@[simp] theorem emitRequestFrom_bus (n : Nat) :
    (emitRequestFrom n s).bus =
      { s.bus with credit := s.bus.credit + n, reqEvents := s.bus.reqEvents + 1 } := rfl
@[simp] theorem emitRequestFrom_cfg (n : Nat) : (emitRequestFrom n s).cfg = s.cfg := rfl
@[simp] theorem emitRequestFrom_inputs (n : Nat) : (emitRequestFrom n s).inputs = s.inputs := rfl
@[simp] theorem emitRequestFrom_out (n : Nat) :
    (emitRequestFrom n s).out = s.out ++ [.requestFrom s.cfg.periphAddr n] := rfl
@[simp] theorem emitRequestFrom_ret (n : Nat) : (emitRequestFrom n s).ret = s.ret := rfl
@[simp] theorem emitRequestFrom_free (n : Nat) : (emitRequestFrom n s).free = s.free := rfl

/-! ### emitSend -/

@[simp] theorem emitSend_c (b : List Byte) : (emitSend b s).c = s.c := rfl
@[simp] theorem emitSend_p (b : List Byte) : (emitSend b s).p = s.p := rfl
@[simp] theorem emitSend_bus (b : List Byte) :
    (emitSend b s).bus = { s.bus with p2cWire := s.bus.p2cWire ++ b } := rfl
@[simp] theorem emitSend_cfg (b : List Byte) : (emitSend b s).cfg = s.cfg := rfl
@[simp] theorem emitSend_inputs (b : List Byte) : (emitSend b s).inputs = s.inputs := rfl
@[simp] theorem emitSend_out (b : List Byte) : (emitSend b s).out = s.out ++ [.send b] := rfl
@[simp] theorem emitSend_ret (b : List Byte) : (emitSend b s).ret = s.ret := rfl
@[simp] theorem emitSend_free (b : List Byte) : (emitSend b s).free = s.free := rfl

/-! ### arriveAtController -/

@[simp] theorem arriveAtController_c (b : List Byte) : (arriveAtController b s).c = s.c := rfl
@[simp] theorem arriveAtController_p (b : List Byte) : (arriveAtController b s).p = s.p := rfl
@[simp] theorem arriveAtController_bus (b : List Byte) :
    (arriveAtController b s).bus =
      { s.bus with cRx := s.bus.cRx ++ b, credit := s.bus.credit - b.length } := rfl
@[simp] theorem arriveAtController_cfg (b : List Byte) : (arriveAtController b s).cfg = s.cfg := rfl
@[simp] theorem arriveAtController_inputs (b : List Byte) :
    (arriveAtController b s).inputs = s.inputs := rfl
@[simp] theorem arriveAtController_out (b : List Byte) : (arriveAtController b s).out = s.out := rfl
@[simp] theorem arriveAtController_ret (b : List Byte) : (arriveAtController b s).ret = s.ret := rfl
@[simp] theorem arriveAtController_free (b : List Byte) :
    (arriveAtController b s).free = s.free := rfl

/-! ### arriveAtPeripheral -/

@[simp] theorem arriveAtPeripheral_c (b : List Byte) : (arriveAtPeripheral b s).c = s.c := rfl
@[simp] theorem arriveAtPeripheral_p (b : List Byte) : (arriveAtPeripheral b s).p = s.p := rfl
@[simp] theorem arriveAtPeripheral_bus (b : List Byte) :
    (arriveAtPeripheral b s).bus = { s.bus with pRx := s.bus.pRx ++ b } := rfl
@[simp] theorem arriveAtPeripheral_cfg (b : List Byte) : (arriveAtPeripheral b s).cfg = s.cfg := rfl
@[simp] theorem arriveAtPeripheral_inputs (b : List Byte) :
    (arriveAtPeripheral b s).inputs = s.inputs := rfl
@[simp] theorem arriveAtPeripheral_out (b : List Byte) : (arriveAtPeripheral b s).out = s.out := rfl
@[simp] theorem arriveAtPeripheral_ret (b : List Byte) : (arriveAtPeripheral b s).ret = s.ret := rfl
@[simp] theorem arriveAtPeripheral_free (b : List Byte) :
    (arriveAtPeripheral b s).free = s.free := rfl

/-! ### drainController -/

@[simp] theorem drainController_c : (drainController s).c = s.c := rfl
@[simp] theorem drainController_p : (drainController s).p = s.p := rfl
@[simp] theorem drainController_bus : (drainController s).bus = { s.bus with cRx := [] } := rfl
@[simp] theorem drainController_cfg : (drainController s).cfg = s.cfg := rfl
@[simp] theorem drainController_inputs : (drainController s).inputs = s.inputs := rfl
@[simp] theorem drainController_out : (drainController s).out = s.out := rfl
@[simp] theorem drainController_ret : (drainController s).ret = s.ret := rfl
@[simp] theorem drainController_free : (drainController s).free = s.free := rfl

/-! ### drainPeripheral -/

@[simp] theorem drainPeripheral_c : (drainPeripheral s).c = s.c := rfl
@[simp] theorem drainPeripheral_p : (drainPeripheral s).p = s.p := rfl
@[simp] theorem drainPeripheral_bus : (drainPeripheral s).bus = { s.bus with pRx := [] } := rfl
@[simp] theorem drainPeripheral_cfg : (drainPeripheral s).cfg = s.cfg := rfl
@[simp] theorem drainPeripheral_inputs : (drainPeripheral s).inputs = s.inputs := rfl
@[simp] theorem drainPeripheral_out : (drainPeripheral s).out = s.out := rfl
@[simp] theorem drainPeripheral_ret : (drainPeripheral s).ret = s.ret := rfl
@[simp] theorem drainPeripheral_free : (drainPeripheral s).free = s.free := rfl

/-! ### resetBuffer -/

@[simp] theorem resetBuffer_c (n : Nat) :
    (resetBuffer n s).c =
      { s.c with capacity := BitVec.ofNat 17 n, dataLoc := 0#17, rxbuf := [] } := rfl
@[simp] theorem resetBuffer_p (n : Nat) : (resetBuffer n s).p = s.p := rfl
@[simp] theorem resetBuffer_bus (n : Nat) : (resetBuffer n s).bus = s.bus := rfl
@[simp] theorem resetBuffer_cfg (n : Nat) : (resetBuffer n s).cfg = s.cfg := rfl
@[simp] theorem resetBuffer_inputs (n : Nat) : (resetBuffer n s).inputs = s.inputs := rfl
@[simp] theorem resetBuffer_out (n : Nat) : (resetBuffer n s).out = s.out := rfl
@[simp] theorem resetBuffer_ret (n : Nat) : (resetBuffer n s).ret = s.ret := rfl
@[simp] theorem resetBuffer_free (n : Nat) :
    (resetBuffer n s).free = { s.free with rxEpoch := s.free.rxEpoch + 1 } := rfl

/-! ### releaseBuffer -/

@[simp] theorem releaseBuffer_c :
    (releaseBuffer s).c = { s.c with capacity := 0#17, dataLoc := 0#17, rxbuf := [] } := rfl
@[simp] theorem releaseBuffer_p : (releaseBuffer s).p = s.p := rfl
@[simp] theorem releaseBuffer_bus : (releaseBuffer s).bus = s.bus := rfl
@[simp] theorem releaseBuffer_cfg : (releaseBuffer s).cfg = s.cfg := rfl
@[simp] theorem releaseBuffer_inputs : (releaseBuffer s).inputs = s.inputs := rfl
@[simp] theorem releaseBuffer_out : (releaseBuffer s).out = s.out := rfl
@[simp] theorem releaseBuffer_ret : (releaseBuffer s).ret = s.ret := rfl
@[simp] theorem releaseBuffer_free :
    (releaseBuffer s).free = { s.free with rxEpoch := s.free.rxEpoch + 1 } := rfl

/-! ### loadOutbuf -/

@[simp] theorem loadOutbuf_c (b : List Byte) : (loadOutbuf b s).c = s.c := rfl
@[simp] theorem loadOutbuf_p (b : List Byte) :
    (loadOutbuf b s).p =
      { s.p with
        outbuf := Memory.ofBytes 0 b, outLen := BitVec.ofNat 16 b.length
        sendCursor := 0#16 } := rfl
@[simp] theorem loadOutbuf_bus (b : List Byte) : (loadOutbuf b s).bus = s.bus := rfl
@[simp] theorem loadOutbuf_cfg (b : List Byte) : (loadOutbuf b s).cfg = s.cfg := rfl
@[simp] theorem loadOutbuf_inputs (b : List Byte) : (loadOutbuf b s).inputs = s.inputs := rfl
@[simp] theorem loadOutbuf_out (b : List Byte) : (loadOutbuf b s).out = s.out := rfl
@[simp] theorem loadOutbuf_ret (b : List Byte) : (loadOutbuf b s).ret = s.ret := rfl
@[simp] theorem loadOutbuf_free (b : List Byte) : (loadOutbuf b s).free = s.free := rfl

/-! ### releaseOutbuf -/

@[simp] theorem releaseOutbuf_c : (releaseOutbuf s).c = s.c := rfl
@[simp] theorem releaseOutbuf_p :
    (releaseOutbuf s).p =
      { s.p with outbuf := [], outLen := 0#16, sendCursor := 0#16, state := .idle } := rfl
@[simp] theorem releaseOutbuf_bus : (releaseOutbuf s).bus = s.bus := rfl
@[simp] theorem releaseOutbuf_cfg : (releaseOutbuf s).cfg = s.cfg := rfl
@[simp] theorem releaseOutbuf_inputs : (releaseOutbuf s).inputs = s.inputs := rfl
@[simp] theorem releaseOutbuf_out : (releaseOutbuf s).out = s.out := rfl
@[simp] theorem releaseOutbuf_ret : (releaseOutbuf s).ret = s.ret := rfl
@[simp] theorem releaseOutbuf_free :
    (releaseOutbuf s).free = { s.free with outEpoch := s.free.outEpoch + 1 } := rfl

/-! ### setCtrlState -/

@[simp] theorem setCtrlState_c (x : CtrlState) :
    (setCtrlState x s).c = { s.c with state := x } := rfl
@[simp] theorem setCtrlState_p (x : CtrlState) : (setCtrlState x s).p = s.p := rfl
@[simp] theorem setCtrlState_bus (x : CtrlState) : (setCtrlState x s).bus = s.bus := rfl
@[simp] theorem setCtrlState_cfg (x : CtrlState) : (setCtrlState x s).cfg = s.cfg := rfl
@[simp] theorem setCtrlState_inputs (x : CtrlState) : (setCtrlState x s).inputs = s.inputs := rfl
@[simp] theorem setCtrlState_out (x : CtrlState) : (setCtrlState x s).out = s.out := rfl
@[simp] theorem setCtrlState_ret (x : CtrlState) : (setCtrlState x s).ret = s.ret := rfl
@[simp] theorem setCtrlState_free (x : CtrlState) : (setCtrlState x s).free = s.free := rfl

/-! ### setConnected -/

@[simp] theorem setConnected_c (v : Bool) :
    (setConnected v s).c = { s.c with connected := v } := rfl
@[simp] theorem setConnected_p (v : Bool) : (setConnected v s).p = s.p := rfl
@[simp] theorem setConnected_bus (v : Bool) : (setConnected v s).bus = s.bus := rfl
@[simp] theorem setConnected_cfg (v : Bool) : (setConnected v s).cfg = s.cfg := rfl
@[simp] theorem setConnected_inputs (v : Bool) : (setConnected v s).inputs = s.inputs := rfl
@[simp] theorem setConnected_out (v : Bool) : (setConnected v s).out = s.out := rfl
@[simp] theorem setConnected_ret (v : Bool) : (setConnected v s).ret = s.ret := rfl
@[simp] theorem setConnected_free (v : Bool) : (setConnected v s).free = s.free := rfl

/-! ### setPending -/

@[simp] theorem setPending_c (v : Option Handle) :
    (setPending v s).c = { s.c with pendingReceiver := v } := rfl
@[simp] theorem setPending_p (v : Option Handle) : (setPending v s).p = s.p := rfl
@[simp] theorem setPending_bus (v : Option Handle) : (setPending v s).bus = s.bus := rfl
@[simp] theorem setPending_cfg (v : Option Handle) : (setPending v s).cfg = s.cfg := rfl
@[simp] theorem setPending_inputs (v : Option Handle) : (setPending v s).inputs = s.inputs := rfl
@[simp] theorem setPending_out (v : Option Handle) : (setPending v s).out = s.out := rfl
@[simp] theorem setPending_ret (v : Option Handle) : (setPending v s).ret = s.ret := rfl
@[simp] theorem setPending_free (v : Option Handle) : (setPending v s).free = s.free := rfl

/-! ### resetController -/

@[simp] theorem resetController_c : (resetController s).c = Ctrl.reset s.cfg := rfl
@[simp] theorem resetController_p : (resetController s).p = s.p := rfl
@[simp] theorem resetController_bus : (resetController s).bus = s.bus := rfl
@[simp] theorem resetController_cfg : (resetController s).cfg = s.cfg := rfl
@[simp] theorem resetController_inputs : (resetController s).inputs = s.inputs := rfl
@[simp] theorem resetController_out : (resetController s).out = s.out := rfl
@[simp] theorem resetController_ret : (resetController s).ret = s.ret := rfl
@[simp] theorem resetController_free :
    (resetController s).free = { s.free with rxEpoch := s.free.rxEpoch + 1 } := rfl

/-! ### setTimeoutPeriod -/

@[simp] theorem setTimeoutPeriod_c (v : Word32) :
    (setTimeoutPeriod v s).c = { s.c with timeoutPeriod := v } := rfl
@[simp] theorem setTimeoutPeriod_p (v : Word32) : (setTimeoutPeriod v s).p = s.p := rfl
@[simp] theorem setTimeoutPeriod_bus (v : Word32) : (setTimeoutPeriod v s).bus = s.bus := rfl
@[simp] theorem setTimeoutPeriod_cfg (v : Word32) : (setTimeoutPeriod v s).cfg = s.cfg := rfl
@[simp] theorem setTimeoutPeriod_inputs (v : Word32) :
    (setTimeoutPeriod v s).inputs = s.inputs := rfl
@[simp] theorem setTimeoutPeriod_out (v : Word32) : (setTimeoutPeriod v s).out = s.out := rfl
@[simp] theorem setTimeoutPeriod_ret (v : Word32) : (setTimeoutPeriod v s).ret = s.ret := rfl
@[simp] theorem setTimeoutPeriod_free (v : Word32) : (setTimeoutPeriod v s).free = s.free := rfl

/-! ### recordIdentity -/

@[simp] theorem recordIdentity_c (now t : Word32) (v : Word16) :
    (recordIdentity now t v s).c =
      { s.c with deviceType := t, deviceVersion := v, lastPingMs := now } := rfl
@[simp] theorem recordIdentity_p (now t : Word32) (v : Word16) :
    (recordIdentity now t v s).p = s.p := rfl
@[simp] theorem recordIdentity_bus (now t : Word32) (v : Word16) :
    (recordIdentity now t v s).bus = s.bus := rfl
@[simp] theorem recordIdentity_cfg (now t : Word32) (v : Word16) :
    (recordIdentity now t v s).cfg = s.cfg := rfl
@[simp] theorem recordIdentity_inputs (now t : Word32) (v : Word16) :
    (recordIdentity now t v s).inputs = s.inputs := rfl
@[simp] theorem recordIdentity_out (now t : Word32) (v : Word16) :
    (recordIdentity now t v s).out = s.out := rfl
@[simp] theorem recordIdentity_ret (now t : Word32) (v : Word16) :
    (recordIdentity now t v s).ret = s.ret := rfl
@[simp] theorem recordIdentity_free (now t : Word32) (v : Word16) :
    (recordIdentity now t v s).free = s.free := rfl

/-! ### captureHeader -/

@[simp] theorem captureHeader_c (d : Word16) (k : List Byte) :
    (captureHeader d k s).c =
      { s.c with expectedDataSize := d, expectedChecksum := k, reqMark := 0#17 } := rfl
@[simp] theorem captureHeader_p (d : Word16) (k : List Byte) : (captureHeader d k s).p = s.p := rfl
@[simp] theorem captureHeader_bus (d : Word16) (k : List Byte) :
    (captureHeader d k s).bus = s.bus := rfl
@[simp] theorem captureHeader_cfg (d : Word16) (k : List Byte) :
    (captureHeader d k s).cfg = s.cfg := rfl
@[simp] theorem captureHeader_inputs (d : Word16) (k : List Byte) :
    (captureHeader d k s).inputs = s.inputs := rfl
@[simp] theorem captureHeader_out (d : Word16) (k : List Byte) :
    (captureHeader d k s).out = s.out := rfl
@[simp] theorem captureHeader_ret (d : Word16) (k : List Byte) :
    (captureHeader d k s).ret = s.ret := rfl
@[simp] theorem captureHeader_free (d : Word16) (k : List Byte) :
    (captureHeader d k s).free = s.free := rfl

/-! ### advanceReqMark -/

@[simp] theorem advanceReqMark_c :
    (advanceReqMark s).c = { s.c with reqMark := s.c.reqMark + 32#17 } := rfl
@[simp] theorem advanceReqMark_p : (advanceReqMark s).p = s.p := rfl
@[simp] theorem advanceReqMark_bus : (advanceReqMark s).bus = s.bus := rfl
@[simp] theorem advanceReqMark_cfg : (advanceReqMark s).cfg = s.cfg := rfl
@[simp] theorem advanceReqMark_inputs : (advanceReqMark s).inputs = s.inputs := rfl
@[simp] theorem advanceReqMark_out : (advanceReqMark s).out = s.out := rfl
@[simp] theorem advanceReqMark_ret : (advanceReqMark s).ret = s.ret := rfl
@[simp] theorem advanceReqMark_free : (advanceReqMark s).free = s.free := rfl

/-! ### resetPeripheral -/

@[simp] theorem resetPeripheral_c (t : Word32) (v : Word16) : (resetPeripheral t v s).c = s.c := rfl
@[simp] theorem resetPeripheral_p (t : Word32) (v : Word16) :
    (resetPeripheral t v s).p = Periph.reset t v := rfl
@[simp] theorem resetPeripheral_bus (t : Word32) (v : Word16) :
    (resetPeripheral t v s).bus = s.bus := rfl
@[simp] theorem resetPeripheral_cfg (t : Word32) (v : Word16) :
    (resetPeripheral t v s).cfg = s.cfg := rfl
@[simp] theorem resetPeripheral_inputs (t : Word32) (v : Word16) :
    (resetPeripheral t v s).inputs = s.inputs := rfl
@[simp] theorem resetPeripheral_out (t : Word32) (v : Word16) :
    (resetPeripheral t v s).out = s.out := rfl
@[simp] theorem resetPeripheral_ret (t : Word32) (v : Word16) :
    (resetPeripheral t v s).ret = s.ret := rfl
@[simp] theorem resetPeripheral_free (t : Word32) (v : Word16) :
    (resetPeripheral t v s).free = { s.free with outEpoch := s.free.outEpoch + 1 } := rfl

/-! ### setPeriphState -/

@[simp] theorem setPeriphState_c (x : PeriphState) : (setPeriphState x s).c = s.c := rfl
@[simp] theorem setPeriphState_p (x : PeriphState) :
    (setPeriphState x s).p = { s.p with state := x } := rfl
@[simp] theorem setPeriphState_bus (x : PeriphState) : (setPeriphState x s).bus = s.bus := rfl
@[simp] theorem setPeriphState_cfg (x : PeriphState) : (setPeriphState x s).cfg = s.cfg := rfl
@[simp] theorem setPeriphState_inputs (x : PeriphState) :
    (setPeriphState x s).inputs = s.inputs := rfl
@[simp] theorem setPeriphState_out (x : PeriphState) : (setPeriphState x s).out = s.out := rfl
@[simp] theorem setPeriphState_ret (x : PeriphState) : (setPeriphState x s).ret = s.ret := rfl
@[simp] theorem setPeriphState_free (x : PeriphState) : (setPeriphState x s).free = s.free := rfl

/-! ### advanceSendCursor -/

@[simp] theorem advanceSendCursor_c : (advanceSendCursor s).c = s.c := rfl
@[simp] theorem advanceSendCursor_p :
    (advanceSendCursor s).p = { s.p with sendCursor := s.p.sendCursor + 32#16 } := rfl
@[simp] theorem advanceSendCursor_bus : (advanceSendCursor s).bus = s.bus := rfl
@[simp] theorem advanceSendCursor_cfg : (advanceSendCursor s).cfg = s.cfg := rfl
@[simp] theorem advanceSendCursor_inputs : (advanceSendCursor s).inputs = s.inputs := rfl
@[simp] theorem advanceSendCursor_out : (advanceSendCursor s).out = s.out := rfl
@[simp] theorem advanceSendCursor_ret : (advanceSendCursor s).ret = s.ret := rfl
@[simp] theorem advanceSendCursor_free : (advanceSendCursor s).free = s.free := rfl

/-! ### registerHandler -/

@[simp] theorem registerHandler_c : (registerHandler s).c = s.c := rfl
@[simp] theorem registerHandler_p : (registerHandler s).p = s.p := rfl
@[simp] theorem registerHandler_bus :
    (registerHandler s).bus = { s.bus with onRequestRegistered := true } := rfl
@[simp] theorem registerHandler_cfg : (registerHandler s).cfg = s.cfg := rfl
@[simp] theorem registerHandler_inputs : (registerHandler s).inputs = s.inputs := rfl
@[simp] theorem registerHandler_out : (registerHandler s).out = s.out := rfl
@[simp] theorem registerHandler_ret : (registerHandler s).ret = s.ret := rfl
@[simp] theorem registerHandler_free : (registerHandler s).free = s.free := rfl

/-! ### setC2PWire -/

@[simp] theorem setC2PWire_c (r : List Byte) : (setC2PWire r s).c = s.c := rfl
@[simp] theorem setC2PWire_p (r : List Byte) : (setC2PWire r s).p = s.p := rfl
@[simp] theorem setC2PWire_bus (r : List Byte) :
    (setC2PWire r s).bus = { s.bus with c2pWire := r } := rfl
@[simp] theorem setC2PWire_cfg (r : List Byte) : (setC2PWire r s).cfg = s.cfg := rfl
@[simp] theorem setC2PWire_inputs (r : List Byte) : (setC2PWire r s).inputs = s.inputs := rfl
@[simp] theorem setC2PWire_out (r : List Byte) : (setC2PWire r s).out = s.out := rfl
@[simp] theorem setC2PWire_ret (r : List Byte) : (setC2PWire r s).ret = s.ret := rfl
@[simp] theorem setC2PWire_free (r : List Byte) : (setC2PWire r s).free = s.free := rfl

/-! ### setP2CWire -/

@[simp] theorem setP2CWire_c (r : List Byte) : (setP2CWire r s).c = s.c := rfl
@[simp] theorem setP2CWire_p (r : List Byte) : (setP2CWire r s).p = s.p := rfl
@[simp] theorem setP2CWire_bus (r : List Byte) :
    (setP2CWire r s).bus = { s.bus with p2cWire := r } := rfl
@[simp] theorem setP2CWire_cfg (r : List Byte) : (setP2CWire r s).cfg = s.cfg := rfl
@[simp] theorem setP2CWire_inputs (r : List Byte) : (setP2CWire r s).inputs = s.inputs := rfl
@[simp] theorem setP2CWire_out (r : List Byte) : (setP2CWire r s).out = s.out := rfl
@[simp] theorem setP2CWire_ret (r : List Byte) : (setP2CWire r s).ret = s.ret := rfl
@[simp] theorem setP2CWire_free (r : List Byte) : (setP2CWire r s).free = s.free := rfl

/-! ### takeRequestEvent -/

@[simp] theorem takeRequestEvent_c : (takeRequestEvent s).c = s.c := rfl
@[simp] theorem takeRequestEvent_p : (takeRequestEvent s).p = s.p := rfl
@[simp] theorem takeRequestEvent_bus :
    (takeRequestEvent s).bus = { s.bus with reqEvents := s.bus.reqEvents - 1 } := rfl
@[simp] theorem takeRequestEvent_cfg : (takeRequestEvent s).cfg = s.cfg := rfl
@[simp] theorem takeRequestEvent_inputs : (takeRequestEvent s).inputs = s.inputs := rfl
@[simp] theorem takeRequestEvent_out : (takeRequestEvent s).out = s.out := rfl
@[simp] theorem takeRequestEvent_ret : (takeRequestEvent s).ret = s.ret := rfl
@[simp] theorem takeRequestEvent_free : (takeRequestEvent s).free = s.free := rfl

/-! ### endTransfer -/

@[simp] theorem endTransfer_c :
    (endTransfer s).c =
      { s.c with
        capacity := 0#17, dataLoc := 0#17, rxbuf := [], pendingReceiver := none
        state := .idle } := rfl
@[simp] theorem endTransfer_p : (endTransfer s).p = s.p := rfl
@[simp] theorem endTransfer_bus : (endTransfer s).bus = s.bus := rfl
@[simp] theorem endTransfer_cfg : (endTransfer s).cfg = s.cfg := rfl
@[simp] theorem endTransfer_inputs : (endTransfer s).inputs = s.inputs := rfl
@[simp] theorem endTransfer_out : (endTransfer s).out = s.out := rfl
@[simp] theorem endTransfer_ret : (endTransfer s).ret = s.ret := rfl
@[simp] theorem endTransfer_free :
    (endTransfer s).free = { s.free with rxEpoch := s.free.rxEpoch + 1 } := rfl

/-! ### emitWrite -/

@[simp] theorem emitWrite_c (b : List Byte) (st : Status) : (emitWrite b st s).c = s.c := by
  unfold emitWrite; dsimp only; split <;> rfl
@[simp] theorem emitWrite_p (b : List Byte) (st : Status) : (emitWrite b st s).p = s.p := by
  unfold emitWrite; dsimp only; split <;> rfl
@[simp] theorem emitWrite_cfg (b : List Byte) (st : Status) : (emitWrite b st s).cfg = s.cfg := by
  unfold emitWrite; dsimp only; split <;> rfl
@[simp] theorem emitWrite_inputs (b : List Byte) (st : Status) :
    (emitWrite b st s).inputs = s.inputs := by
  unfold emitWrite; dsimp only; split <;> rfl
@[simp] theorem emitWrite_ret (b : List Byte) (st : Status) : (emitWrite b st s).ret = s.ret := by
  unfold emitWrite; dsimp only; split <;> rfl
@[simp] theorem emitWrite_free (b : List Byte) (st : Status) :
    (emitWrite b st s).free = s.free := by
  unfold emitWrite; dsimp only; split <;> rfl

/-! ### emitComplete -/

@[simp] theorem emitComplete_c (b : Option (List Byte)) (d : Word16) (n : Word17) :
    (emitComplete b d n s).c = s.c := by
  unfold emitComplete; split <;> rfl
@[simp] theorem emitComplete_p (b : Option (List Byte)) (d : Word16) (n : Word17) :
    (emitComplete b d n s).p = s.p := by
  unfold emitComplete; split <;> rfl
@[simp] theorem emitComplete_bus (b : Option (List Byte)) (d : Word16) (n : Word17) :
    (emitComplete b d n s).bus = s.bus := by
  unfold emitComplete; split <;> rfl
@[simp] theorem emitComplete_cfg (b : Option (List Byte)) (d : Word16) (n : Word17) :
    (emitComplete b d n s).cfg = s.cfg := by
  unfold emitComplete; split <;> rfl
@[simp] theorem emitComplete_inputs (b : Option (List Byte)) (d : Word16) (n : Word17) :
    (emitComplete b d n s).inputs = s.inputs := by
  unfold emitComplete; split <;> rfl
@[simp] theorem emitComplete_ret (b : Option (List Byte)) (d : Word16) (n : Word17) :
    (emitComplete b d n s).ret = s.ret := by
  unfold emitComplete; split <;> rfl
@[simp] theorem emitComplete_free (b : Option (List Byte)) (d : Word16) (n : Word17) :
    (emitComplete b d n s).free = s.free := by
  unfold emitComplete; split <;> rfl

/-! ### storeByte -/

@[simp] theorem storeByte_p (b : Byte) : (storeByte b s).p = s.p := by
  unfold storeByte; split <;> rfl
@[simp] theorem storeByte_bus (b : Byte) : (storeByte b s).bus = s.bus := by
  unfold storeByte; split <;> rfl
@[simp] theorem storeByte_cfg (b : Byte) : (storeByte b s).cfg = s.cfg := by
  unfold storeByte; split <;> rfl
@[simp] theorem storeByte_inputs (b : Byte) : (storeByte b s).inputs = s.inputs := by
  unfold storeByte; split <;> rfl
@[simp] theorem storeByte_out (b : Byte) : (storeByte b s).out = s.out := by
  unfold storeByte; split <;> rfl
@[simp] theorem storeByte_ret (b : Byte) : (storeByte b s).ret = s.ret := by
  unfold storeByte; split <;> rfl
@[simp] theorem storeByte_free (b : Byte) : (storeByte b s).free = s.free := by
  unfold storeByte; split <;> rfl

/-! ### stampArrival -/

@[simp] theorem stampArrival_p (now : Word32) (b : List Byte) :
    (stampArrival now b s).p = s.p := by
  unfold stampArrival; split <;> rfl
@[simp] theorem stampArrival_bus (now : Word32) (b : List Byte) :
    (stampArrival now b s).bus = s.bus := by
  unfold stampArrival; split <;> rfl
@[simp] theorem stampArrival_cfg (now : Word32) (b : List Byte) :
    (stampArrival now b s).cfg = s.cfg := by
  unfold stampArrival; split <;> rfl
@[simp] theorem stampArrival_inputs (now : Word32) (b : List Byte) :
    (stampArrival now b s).inputs = s.inputs := by
  unfold stampArrival; split <;> rfl
@[simp] theorem stampArrival_out (now : Word32) (b : List Byte) :
    (stampArrival now b s).out = s.out := by
  unfold stampArrival; split <;> rfl
@[simp] theorem stampArrival_ret (now : Word32) (b : List Byte) :
    (stampArrival now b s).ret = s.ret := by
  unfold stampArrival; split <;> rfl
@[simp] theorem stampArrival_free (now : Word32) (b : List Byte) :
    (stampArrival now b s).free = s.free := by
  unfold stampArrival; split <;> rfl

@[simp] theorem emitWrite_out (b : List Byte) (st : Status) :
    (emitWrite b st s).out = s.out ++ [.write s.cfg.periphAddr b] := by
  unfold emitWrite; dsimp only; split <;> rfl
theorem emitWrite_bus (b : List Byte) (st : Status) : (emitWrite b st s).bus =
    if st = .ok then { s.bus with c2pWire := s.bus.c2pWire ++ b } else s.bus := by
  unfold emitWrite; dsimp only; split <;> rfl
theorem emitComplete_out (b : Option (List Byte)) (d : Word16) (n : Word17) :
    (emitComplete b d n s).out =
      match s.c.pendingReceiver with
      | some cb => s.out ++ [.complete cb b d n]
      | none => s.out := by
  unfold emitComplete; split <;> simp_all
theorem stampArrival_c (now : Word32) (b : List Byte) : (stampArrival now b s).c =
    { s.c with lastBytesReceivedMs := if b = [] then s.c.lastBytesReceivedMs else now } := by
  unfold stampArrival; split <;> simp_all

/-! ### pull -/

@[simp] theorem pull_p (b : List Byte) : (pull b s).p = s.p := by
  induction b generalizing s with
  | nil => rfl
  | cons x r ih => rw [pull, ih, storeByte_p]
@[simp] theorem pull_bus (b : List Byte) : (pull b s).bus = s.bus := by
  induction b generalizing s with
  | nil => rfl
  | cons x r ih => rw [pull, ih, storeByte_bus]
@[simp] theorem pull_cfg (b : List Byte) : (pull b s).cfg = s.cfg := by
  induction b generalizing s with
  | nil => rfl
  | cons x r ih => rw [pull, ih, storeByte_cfg]
@[simp] theorem pull_inputs (b : List Byte) : (pull b s).inputs = s.inputs := by
  induction b generalizing s with
  | nil => rfl
  | cons x r ih => rw [pull, ih, storeByte_inputs]
@[simp] theorem pull_out (b : List Byte) : (pull b s).out = s.out := by
  induction b generalizing s with
  | nil => rfl
  | cons x r ih => rw [pull, ih, storeByte_out]
@[simp] theorem pull_ret (b : List Byte) : (pull b s).ret = s.ret := by
  induction b generalizing s with
  | nil => rfl
  | cons x r ih => rw [pull, ih, storeByte_ret]
@[simp] theorem pull_free (b : List Byte) : (pull b s).free = s.free := by
  induction b generalizing s with
  | nil => rfl
  | cons x r ih => rw [pull, ih, storeByte_free]

/-! ### Operand quantities -/

@[simp] theorem sosSize_eq : s.sosSize = Config.sosSize s.cfg.cksumWidth := rfl
@[simp] theorem periphAddr_eq : s.periphAddr = s.cfg.periphAddr := rfl
@[simp] theorem spaceSize_rxbuf : s.spaceSize .rxbuf = s.c.capacity.toNat := rfl
@[simp] theorem spaceSize_outbuf : s.spaceSize .outbuf = s.p.outLen.toNat := rfl
@[simp] theorem spaceCells_rxbuf : s.spaceCells .rxbuf = s.c.rxbuf := rfl
@[simp] theorem spaceCells_outbuf : s.spaceCells .outbuf = s.p.outbuf := rfl
@[simp] theorem spaceEpoch_rxbuf : s.spaceEpoch .rxbuf = s.free.rxEpoch := rfl
@[simp] theorem spaceEpoch_outbuf : s.spaceEpoch .outbuf = s.free.outEpoch := rfl

end Sys2Proof.Machine
end

