-- ==== Sys2Proof/Laws/Memory.lean ====
section
/-! SUPPORT. The laws of a buffer space's contents: read after write, and that every operation
keeps the canonical form. -/

namespace Sys2Proof.Machine

@[simp] theorem Memory.read_nil (a : Nat) : Memory.read [] a = none := rfl

theorem Memory.read_write_same (m : Memory) (a : Nat) (b : Byte) :
    (m.write a b).read a = some b := by
  induction m with
  | nil => simp [Memory.write, Memory.read]
  | cons x rest ih =>
    obtain ⟨k, v⟩ := x
    rw [Memory.write]
    split
    · simp [Memory.read]
    · split
      · simp [Memory.read]
      · rw [Memory.read, if_neg (by omega), ih]

theorem Memory.read_write_other (m : Memory) (a k : Nat) (b : Byte) (h : k ≠ a) :
    (m.write a b).read k = m.read k := by
  induction m with
  | nil => simp [Memory.write, Memory.read, Ne.symm h]
  | cons x rest ih =>
    obtain ⟨j, v⟩ := x
    rw [Memory.write]
    split
    · rw [Memory.read, if_neg (Ne.symm h)]
    · split
      · subst_vars
        rw [Memory.read, Memory.read, if_neg (Ne.symm h), if_neg (Ne.symm h)]
      · rw [Memory.read, Memory.read, ih]

/-- The canonical form is that the offsets rise strictly. -/
theorem Memory.wf_iff (m : Memory) : m.wf = true ↔ (m.map Prod.fst).Pairwise (· < ·) := by
  rw [← List.isChain_iff_pairwise]
  induction m with
  | nil => simp [Memory.wf]
  | cons x rest ih =>
    cases rest with
    | nil => simp [Memory.wf]
    | cons y rest => simp_all [Memory.wf]

theorem Memory.mem_keys_write (m : Memory) (a k : Nat) (b : Byte)
    (h : k ∈ (m.write a b).map Prod.fst) : k = a ∨ k ∈ m.map Prod.fst := by
  induction m with
  | nil => simpa [Memory.write] using h
  | cons x rest ih =>
    obtain ⟨j, v⟩ := x
    rw [Memory.write] at h
    split at h
    · simp_all
    · split at h
      · simp_all
      · simp only [List.map_cons, List.mem_cons] at h ⊢
        rcases h with h | h
        · exact Or.inr (Or.inl h)
        · rcases ih h with h | h
          · exact Or.inl h
          · exact Or.inr (Or.inr h)

/-- A write keeps the canonical form. -/
theorem Memory.wf_write (m : Memory) (a : Nat) (b : Byte) (h : m.wf = true) :
    (m.write a b).wf = true := by
  rw [Memory.wf_iff] at h ⊢
  induction m with
  | nil => simp [Memory.write]
  | cons x rest ih =>
    obtain ⟨j, v⟩ := x
    rw [List.map_cons, List.pairwise_cons] at h
    rw [Memory.write]
    split
    · rename_i hlt
      simp only [List.map_cons, List.pairwise_cons, List.mem_cons]
      refine ⟨fun k hk => ?_, h⟩
      rcases hk with rfl | hk
      · exact hlt
      · exact lt_trans hlt (h.1 k hk)
    · split
      · rename_i heq
        subst heq
        exact List.pairwise_cons.mpr h
      · simp only [List.map_cons, List.pairwise_cons]
        refine ⟨fun k hk => ?_, ih h.2⟩
        rcases Memory.mem_keys_write rest a k b hk with rfl | hk
        · show j < k
          omega
        · exact h.1 k hk

/-- A space filled to `n` is in canonical form. -/
theorem Memory.filledTo.wf {m : Memory} {n : Nat} (h : m.filledTo n) : m.wf = true := by
  rw [Memory.wf_iff, show m.map Prod.fst = List.range n from h]
  exact List.pairwise_lt_range

/-- A write past every listed offset appends. -/
theorem Memory.write_end (m : Memory) (a : Nat) (b : Byte)
    (h : ∀ k ∈ m.map Prod.fst, k < a) : m.write a b = m ++ [(a, b)] := by
  induction m with
  | nil => rfl
  | cons x rest ih =>
    obtain ⟨j, v⟩ := x
    have hj : j < a := h j (by simp)
    rw [Memory.write, if_neg (by omega), if_neg (by omega), ih (fun k hk => h k (by simp_all))]
    rfl

/-- A write at the end of a filled space fills one offset more. -/
theorem Memory.filledTo.write_end {m : Memory} {n : Nat} (h : m.filledTo n) (b : Byte) :
    (m.write n b).filledTo (n + 1) := by
  have h' : m.map Prod.fst = List.range n := h
  rw [Memory.write_end m n b (by rw [h']; simp)]
  show (m ++ [(n, b)]).map Prod.fst = _
  rw [List.map_append, h', List.range_succ]
  rfl

theorem Memory.keys_ofBytes (a : Nat) (bytes : List Byte) :
    (Memory.ofBytes a bytes).map Prod.fst = List.range' a bytes.length := by
  induction bytes generalizing a with
  | nil => rfl
  | cons b rest ih => simp [Memory.ofBytes, ih, List.range'_succ]

/-- A byte string laid down from offset 0 fills the space to its length. -/
theorem Memory.filledTo_ofBytes (bytes : List Byte) :
    (Memory.ofBytes 0 bytes).filledTo bytes.length := by
  show (Memory.ofBytes 0 bytes).map Prod.fst = _
  rw [Memory.keys_ofBytes, List.range_eq_range']

/-- Reading back a byte string that was laid down from offset `a`. -/
theorem Memory.read_ofBytes (a k : Nat) (bytes : List Byte) :
    (Memory.ofBytes a bytes).read k = if a ≤ k then bytes[k - a]? else none := by
  induction bytes generalizing a with
  | nil => simp [Memory.ofBytes]
  | cons b rest ih =>
    rw [Memory.ofBytes, Memory.read, ih]
    by_cases hk : a = k
    · subst hk; simp
    · by_cases hle : a ≤ k
      · have hs : k - a = (k - (a + 1)) + 1 := by omega
        rw [if_neg hk, if_pos (by omega : a + 1 ≤ k), if_pos hle, hs]
        rfl
      · rw [if_neg hk, if_neg (by omega), if_neg hle]

end Sys2Proof.Machine
end

