-- ==== Sys2Proof/Laws/Ops.lean ====
section
/-! SUPPORT. For each shared operation, what it can do, said once. -/

namespace Sys2Proof.Machine

variable (s : State)

/-! ### Arrivals -/

/-- What a format's arrival does to the transport: its bytes join the receiver's queue, and towards
the controller they use up credit. -/
theorem arriveAtReceiver_bus (f : Format) (bytes : List Byte) :
    (arriveAtReceiver f bytes s).bus =
      if f = .ping then { s.bus with pRx := s.bus.pRx ++ bytes }
      else { s.bus with
        cRx := s.bus.cRx ++ bytes, credit := s.bus.credit - bytes.length } := by
  cases f <;> rfl

@[simp] theorem arriveAtReceiver_c (f : Format) (bytes : List Byte) :
    (arriveAtReceiver f bytes s).c = s.c := by cases f <;> rfl
@[simp] theorem arriveAtReceiver_p (f : Format) (bytes : List Byte) :
    (arriveAtReceiver f bytes s).p = s.p := by cases f <;> rfl
@[simp] theorem arriveAtReceiver_cfg (f : Format) (bytes : List Byte) :
    (arriveAtReceiver f bytes s).cfg = s.cfg := by cases f <;> rfl
@[simp] theorem arriveAtReceiver_inputs (f : Format) (bytes : List Byte) :
    (arriveAtReceiver f bytes s).inputs = s.inputs := by cases f <;> rfl
@[simp] theorem arriveAtReceiver_out (f : Format) (bytes : List Byte) :
    (arriveAtReceiver f bytes s).out = s.out := by cases f <;> rfl
@[simp] theorem arriveAtReceiver_ret (f : Format) (bytes : List Byte) :
    (arriveAtReceiver f bytes s).ret = s.ret := by cases f <;> rfl
@[simp] theorem arriveAtReceiver_free (f : Format) (bytes : List Byte) :
    (arriveAtReceiver f bytes s).free = s.free := by cases f <;> rfl

/-- Raw bytes always arrive; the record returned is that of the format's decode rule exactly on a
byte string of its size. -/
theorem rawBytesArrive_eq (f : Format) (bytes : List Byte) :
    rawBytesArrive f bytes s = .next ((arriveAtReceiver f bytes s.start).returning
      (if bytes.length = formatSize f then recordRead f bytes else .none)) := by
  unfold rawBytesArrive packetArrives
  split
  · rfl
  · cases f <;> rfl

/-- On a wrong tag the record is the sentinel of the kind (40_packet_codec.md R119). -/
theorem recordRead_of_decode_error (f : Format) (bytes : List Byte) (e : DecodeError)
    (h : decode f bytes = .error e) (hl : bytes.length = formatSize f) :
    recordRead f bytes = recordRead f [] := by
  unfold decode at h
  rw [if_pos hl] at h
  cases f with
  | data => rfl
  | ping =>
    by_cases ht : byteAt bytes 0 = Config.tagPing
    · simp [decodePacket, decodePing, ht] at h
    · rw [recordRead, decodePing, decide_eq_false ht]; rfl
  | pingResp =>
    by_cases ht : byteAt bytes 0 = Config.tagPingResponse
    · simp [decodePacket, decodePingResponse, ht] at h
    · rw [recordRead, decodePingResponse, if_neg ht]; rfl
  | sos4 =>
    by_cases ht : byteAt bytes 0 = Config.tagStartOfStream
    · simp [decodePacket, decodeStartOfStream, ht] at h
    · rw [recordRead, decodeStartOfStream, if_neg ht]; rfl
  | sos16 =>
    by_cases ht : byteAt bytes 0 = Config.tagStartOfStream
    · simp [decodePacket, decodeStartOfStream, ht] at h
    · rw [recordRead, decodeStartOfStream, if_neg ht]; rfl

/-! ### Buffer reads -/

@[simp] theorem bytesFrom_zero (space : BufSpace) (a : Nat) : s.bytesFrom space a 0 = [] := rfl

@[simp] theorem bytesFrom_length (space : BufSpace) (a n : Nat) :
    (s.bytesFrom space a n).length = n := by
  induction n generalizing a with
  | zero => rfl
  | succ n ih => simp [State.bytesFrom, ih]

theorem bytesFrom_add (space : BufSpace) (a m n : Nat) :
    s.bytesFrom space a (m + n) = s.bytesFrom space a m ++ s.bytesFrom space (a + m) n := by
  induction m generalizing a with
  | zero => simp
  | succ m ih =>
    rw [Nat.add_right_comm, State.bytesFrom, State.bytesFrom, ih, List.cons_append,
      Nat.add_right_comm, Nat.add_assoc]

theorem bytesFrom_congr {s t : State} (space : BufSpace) (a n : Nat)
    (h : ∀ k, a ≤ k → k < a + n → t.byteOf space k = s.byteOf space k) :
    t.bytesFrom space a n = s.bytesFrom space a n := by
  induction n generalizing a with
  | zero => rfl
  | succ n ih =>
    rw [State.bytesFrom, State.bytesFrom, h a (le_refl a) (by omega),
      ih (a + 1) (fun k hk hk' => h k (by omega) (by omega))]

theorem bytesFrom_take (space : BufSpace) (a m n : Nat) (h : m ≤ n) :
    (s.bytesFrom space a n).take m = s.bytesFrom space a m := by
  obtain ⟨d, rfl⟩ := Nat.exists_eq_add_of_le h
  rw [bytesFrom_add, List.take_left' (by simp)]

/-- A read inside the space gives its bytes. -/
theorem memRead_inside (space : BufSpace) (a n : Nat) (h : a + n ≤ s.spaceSize space) :
    memRead space a n s = .ok (s.bytesFrom space a n) := if_pos h

/-- A read that reaches past the space faults. -/
theorem memRead_outside (space : BufSpace) (a n : Nat) (h : ¬ a + n ≤ s.spaceSize space) :
    memRead space a n s = .error (.bufferOffsetAbsent space) := if_neg h

@[simp] theorem withBytes_ok (bytes : List Byte)
    (k : List Byte → Host.Outcome State Fault Refusal) : withBytes (.ok bytes) k = k bytes := rfl

/-- Going on from a read ends in a next state only through the bytes the read gives. -/
theorem withBytes_next {r : Except Fault (List Byte)}
    {k : List Byte → Host.Outcome State Fault Refusal} {t : State}
    (h : withBytes r k = .next t) : ∃ bytes, r = .ok bytes ∧ k bytes = .next t := by
  cases r with
  | ok bytes => exact ⟨bytes, rfl, h⟩
  | error f => cases h

theorem memRead_ok {space : BufSpace} {a n : Nat} {bytes : List Byte}
    (h : memRead space a n s = .ok bytes) :
    a + n ≤ s.spaceSize space ∧ bytes = s.bytesFrom space a n := by
  unfold memRead at h
  split at h
  · rename_i hle
    injection h with h
    exact ⟨hle, h.symm⟩
  · cases h

/-- What a byte of a space reads as depends on the contents and the epoch of that space alone. -/
theorem byteOf_congr {s t : State} (space : BufSpace) (a : Nat)
    (hc : t.spaceCells space = s.spaceCells space) (he : t.spaceEpoch space = s.spaceEpoch space) :
    t.byteOf space a = s.byteOf space a := by
  rw [State.byteOf, State.byteOf, hc, he]

/-- A payload that was just loaded reads back. -/
theorem bytesFrom_loadOutbuf (payload : List Byte) (a n : Nat) (h : a + n ≤ payload.length) :
    (loadOutbuf payload s).bytesFrom .outbuf a n = (payload.drop a).take n := by
  induction n generalizing a with
  | zero => simp
  | succ n ih =>
    have ha : a < payload.length := by omega
    rw [State.bytesFrom, ih (a + 1) (by omega)]
    rw [List.drop_eq_getElem_cons ha, List.take_succ_cons]
    congr 1
    simp [State.byteOf, Memory.read_ofBytes, ha]

/-! ### The pull -/

theorem storeByte_room (b : Byte) (h : s.c.dataLoc < s.c.capacity) :
    storeByte b s = { s with c := { s.c with
      rxbuf := s.c.rxbuf.write s.c.dataLoc.toNat b
      dataLoc := s.c.dataLoc + 1#17 } } := if_pos h

theorem storeByte_full (b : Byte) (h : ¬ s.c.dataLoc < s.c.capacity) : storeByte b s = s :=
  if_neg h

theorem dataLoc_succ (h : s.c.dataLoc < s.c.capacity) :
    (s.c.dataLoc + 1#17).toNat = s.c.dataLoc.toNat + 1 := by
  have h1 : s.c.dataLoc.toNat < s.c.capacity.toNat := h
  have h2 := s.c.capacity.isLt
  rw [BitVec.toNat_add]
  simp
  omega

/-- A full buffer discards every byte (41_controller_update.md R131). -/
theorem pull_full (bytes : List Byte) (h : s.c.dataLoc = s.c.capacity) : pull bytes s = s := by
  induction bytes with
  | nil => rfl
  | cons b rest ih => rw [pull, storeByte_full s b (by rw [h]; simp), ih]

@[simp] theorem pull_nil : pull [] s = s := rfl

/-- Two pulls in a row are one. -/
theorem pull_append (x y : List Byte) : pull (x ++ y) s = pull y (pull x s) := by
  induction x generalizing s with
  | nil => rfl
  | cons b rest ih => rw [List.cons_append, pull, pull, ih]

/-- The pull writes no register but the buffer and its cursor. -/
theorem pull_unpulled (bytes : List Byte) :
    (pull bytes s).c =
      { s.c with rxbuf := (pull bytes s).c.rxbuf, dataLoc := (pull bytes s).c.dataLoc } := by
  induction bytes generalizing s with
  | nil => rfl
  | cons b rest ih =>
    rw [pull, ih]
    unfold storeByte
    split <;> rfl

@[simp] theorem pull_capacity (bytes : List Byte) : (pull bytes s).c.capacity = s.c.capacity := by
  rw [pull_unpulled]

/-- The bytes below the cursor after one byte of the pull. -/
theorem storedBytes_storeByte (b : Byte) (h : s.c.dataLoc < s.c.capacity) :
    storedBytes (storeByte b s) = storedBytes s ++ [b] := by
  rw [storedBytes, storeByte_room s b h]
  show State.bytesFrom _ _ _ (s.c.dataLoc + 1#17).toNat = _
  rw [dataLoc_succ s h, bytesFrom_add]
  congr 1
  · apply bytesFrom_congr
    intro k _ hk
    simp only [State.byteOf, spaceCells_rxbuf, spaceEpoch_rxbuf]
    rw [Memory.read_write_other _ _ _ _ (by omega)]
  · simp [State.bytesFrom, State.byteOf, Memory.read_write_same]

/-- Everything the pull does to the receive buffer: the stored bytes are those from before and
then the pulled ones, cut at the capacity; the bytes from the new cursor on read as before. -/
theorem pull_spec (bytes : List Byte) (h : s.c.dataLoc ≤ s.c.capacity) :
    (pull bytes s).c.dataLoc.toNat =
        ((storedBytes s ++ bytes).take s.c.capacity.toNat).length ∧
      storedBytes (pull bytes s) = (storedBytes s ++ bytes).take s.c.capacity.toNat ∧
      (∀ a, (pull bytes s).c.dataLoc.toNat ≤ a →
        (pull bytes s).byteOf .rxbuf a = s.byteOf .rxbuf a) := by
  have hn : s.c.dataLoc.toNat ≤ s.c.capacity.toNat := h
  induction bytes generalizing s with
  | nil =>
    have : (storedBytes s).length = s.c.dataLoc.toNat := by simp [storedBytes]
    refine ⟨?_, ?_, fun a _ => rfl⟩
    · simp [this]; omega
    · rw [List.append_nil, List.take_of_length_le (by omega)]; rfl
  | cons b rest ih =>
    by_cases hr : s.c.dataLoc < s.c.capacity
    · have hr' : s.c.dataLoc.toNat < s.c.capacity.toNat := hr
      have hloc : (storeByte b s).c.dataLoc.toNat = s.c.dataLoc.toNat + 1 := by
        rw [storeByte_room s b hr]; exact dataLoc_succ s hr
      have hcap : (storeByte b s).c.capacity = s.c.capacity := by rw [storeByte_room s b hr]
      have hle : (storeByte b s).c.dataLoc.toNat ≤ (storeByte b s).c.capacity.toNat := by
        rw [hloc, hcap]; omega
      obtain ⟨h1, h2, h3⟩ := ih (storeByte b s) hle hle
      rw [hcap, storedBytes_storeByte s b hr, List.append_assoc, List.singleton_append] at h1 h2
      refine ⟨h1, h2, fun a ha => ?_⟩
      rw [pull, h3 a ha]
      have hlow : s.c.dataLoc.toNat < a := by
        have hl : (storedBytes s).length = s.c.dataLoc.toNat := by simp [storedBytes]
        have : (pull (b :: rest) s).c.dataLoc.toNat ≤ a := ha
        rw [pull, h1] at this
        simp only [List.length_take, List.length_append, List.length_cons, hl] at this
        omega
      simp only [State.byteOf, spaceCells_rxbuf, spaceEpoch_rxbuf, storeByte_free]
      rw [storeByte_room s b hr]
      simp only
      rw [Memory.read_write_other _ _ _ _ (by omega)]
    · have heq : s.c.dataLoc = s.c.capacity := by
        have hr' : ¬ s.c.dataLoc.toNat < s.c.capacity.toNat := hr
        exact BitVec.eq_of_toNat_eq (by omega)
      have hl : (storedBytes s).length = s.c.capacity.toNat := by simp [storedBytes, heq]
      rw [pull_full s (b :: rest) heq, List.take_left' hl]
      exact ⟨by rw [hl, heq], rfl, fun a _ => rfl⟩

/-- The pull keeps the canonical form of the receive buffer. -/
theorem pull_wf (bytes : List Byte) (h : s.c.rxbuf.wf = true) :
    (pull bytes s).c.rxbuf.wf = true := by
  induction bytes generalizing s with
  | nil => exact h
  | cons b rest ih =>
    refine ih (storeByte b s) ?_
    unfold storeByte
    split
    · exact Memory.wf_write _ _ _ h
    · exact h

/-- The pull keeps the buffer filled exactly to the cursor. -/
theorem pull_filled (bytes : List Byte) (h : s.c.rxbuf.filledTo s.c.dataLoc.toNat) :
    (pull bytes s).c.rxbuf.filledTo (pull bytes s).c.dataLoc.toNat := by
  induction bytes generalizing s with
  | nil => exact h
  | cons b rest ih =>
    refine ih (storeByte b s) ?_
    by_cases hr : s.c.dataLoc < s.c.capacity
    · rw [storeByte_room s b hr]
      show Memory.filledTo _ (s.c.dataLoc + 1#17).toNat
      rw [dataLoc_succ s hr]
      exact h.write_end b
    · rw [storeByte_full s b hr]; exact h

/-! ### Failures: the whole effect of each class -/

theorem raise_transport : raise .transport s = setConnected false s := rfl

theorem raise_malformed_c : (raise .malformed s).c =
    { s.c with connected := false, pendingReceiver := none, state := .idle } := rfl

theorem raise_silence_c : (raise .silence s).c =
    { s.c with
      state := .idle, connected := false, pendingReceiver := none
      capacity := 0#17, dataLoc := 0#17, rxbuf := [] } := rfl

theorem raise_checksum_c : (raise .checksum s).c =
    { s.c with
      state := .idle, pendingReceiver := none
      capacity := 0#17, dataLoc := 0#17, rxbuf := [] } := by
  simp [raise]

@[simp] theorem raise_p (f : FailureClass) : (raise f s).p = s.p := by
  cases f <;> simp [raise]
@[simp] theorem raise_bus (f : FailureClass) : (raise f s).bus = s.bus := by
  cases f <;> simp [raise]
@[simp] theorem raise_cfg (f : FailureClass) : (raise f s).cfg = s.cfg := by
  cases f <;> simp [raise]
@[simp] theorem raise_inputs (f : FailureClass) : (raise f s).inputs = s.inputs := by
  cases f <;> simp [raise]
@[simp] theorem raise_ret (f : FailureClass) : (raise f s).ret = s.ret := by
  cases f <;> simp [raise]
@[simp] theorem raise_outEpoch (f : FailureClass) :
    (raise f s).free.outEpoch = s.free.outEpoch := by
  cases f <;> simp [raise]

/-! ### Numbers -/

@[simp] theorem length_cksum (w : CksumWidth) (bytes : List Byte) :
    (Config.cksum w bytes).length = w.bytes := by
  simp [Config.cksum]

/-- The padded size before it is laid in 17 bits never wraps (42_stream_receiver.md R172). -/
theorem pad32_toNat (d : Word16) : (pad32 d).toNat = (d.toNat + 31) / 32 * 32 := by
  have h := d.isLt
  simp [pad32, Config.chunkSize]
  omega

end Sys2Proof.Machine
end

