-- ==== Sys2Proof/Laws/PerInstr.lean ====
section
/-! SUPPORT. Statements for all instructions, made one constructor at a time. -/

namespace Sys2Proof.Laws.EncodedLength

/-- An instruction has bytes exactly if it has a wire format, and a well-formed one has exactly the
bytes its format fixes (30_encoding.md R90, R102). -/
def Statement (i : Instr) : Prop :=
  (encode i).isSome = (formatOf i).isSome ∧
    (i.wellFormed = true → ∀ f bytes, formatOf i = some f → encode i = some bytes →
      bytes.length = formatSize f)

theorem ping : Statement .ping := by
  refine ⟨rfl, fun _ f bytes hf hb => ?_⟩
  injection hf with hf; injection hb with hb; subst hf hb; rfl

theorem pingResp (t : Word32) (v : Word16) : Statement (.pingResp t v) := by
  refine ⟨rfl, fun _ f bytes hf hb => ?_⟩
  injection hf with hf; injection hb with hb; subst hf hb; rfl

theorem sos4 (d : Word16) (ck : List Byte) : Statement (.sos4 d ck) := by
  refine ⟨rfl, fun hw f bytes hf hb => ?_⟩
  have hl := eq_of_beq hw
  injection hf with hf; injection hb with hb; subst hf hb
  simp [encodeStartOfStream, put16, hl, formatSize, Config.sosSize]
  omega

theorem sos16 (d : Word16) (ck : List Byte) : Statement (.sos16 d ck) := by
  refine ⟨rfl, fun hw f bytes hf hb => ?_⟩
  have hl := eq_of_beq hw
  injection hf with hf; injection hb with hb; subst hf hb
  simp [encodeStartOfStream, put16, hl, formatSize, Config.sosSize]
  omega

theorem data (d : Byte) : Statement (.data d) := by
  refine ⟨rfl, fun _ f bytes hf hb => ?_⟩
  injection hf with hf; injection hb with hb; subst hf hb; rfl

theorem encodePing : Statement .encodePing := by
  exact ⟨rfl, fun _ f bytes hf _ => nomatch hf⟩

theorem decodePing (buf : List Byte) : Statement (.decodePing buf) := by
  exact ⟨rfl, fun _ f bytes hf _ => nomatch hf⟩

theorem encodePingResponse (t : Word32) (v : Word16) : Statement (.encodePingResponse t v) := by
  exact ⟨rfl, fun _ f bytes hf _ => nomatch hf⟩

theorem decodePingResponse (buf : List Byte) : Statement (.decodePingResponse buf) := by
  exact ⟨rfl, fun _ f bytes hf _ => nomatch hf⟩

theorem encodeStartOfStream (d : Word16) (ck : List Byte) :
    Statement (.encodeStartOfStream d ck) := by
  exact ⟨rfl, fun _ f bytes hf _ => nomatch hf⟩

theorem decodeStartOfStream (buf : List Byte) : Statement (.decodeStartOfStream buf) := by
  exact ⟨rfl, fun _ f bytes hf _ => nomatch hf⟩

theorem cUpdate (now : Word32) (rx : List Byte) (st : Status) : Statement (.cUpdate now rx st) := by
  exact ⟨rfl, fun _ f bytes hf _ => nomatch hf⟩

theorem cNew : Statement .cNew := by
  exact ⟨rfl, fun _ f bytes hf _ => nomatch hf⟩

theorem cRequestData (cb : Handle) : Statement (.cRequestData cb) := by
  exact ⟨rfl, fun _ f bytes hf _ => nomatch hf⟩

theorem cSetTimeoutPeriod (v : Word32) : Statement (.cSetTimeoutPeriod v) := by
  exact ⟨rfl, fun _ f bytes hf _ => nomatch hf⟩

theorem cConnected : Statement .cConnected := by
  exact ⟨rfl, fun _ f bytes hf _ => nomatch hf⟩

theorem cGetState : Statement .cGetState := by
  exact ⟨rfl, fun _ f bytes hf _ => nomatch hf⟩

theorem cDeviceType : Statement .cDeviceType := by
  exact ⟨rfl, fun _ f bytes hf _ => nomatch hf⟩

theorem cDeviceVersion : Statement .cDeviceVersion := by
  exact ⟨rfl, fun _ f bytes hf _ => nomatch hf⟩

theorem pNew (t : Word32) (v : Word16) : Statement (.pNew t v) := by
  exact ⟨rfl, fun _ f bytes hf _ => nomatch hf⟩

theorem pUpdate (rx : List Byte) : Statement (.pUpdate rx) := by
  exact ⟨rfl, fun _ f bytes hf _ => nomatch hf⟩

theorem pOnRequest (bytes : List Byte) (n : Nat) : Statement (.pOnRequest bytes n) := by
  exact ⟨rfl, fun _ f bytes hf _ => nomatch hf⟩

end Sys2Proof.Laws.EncodedLength
end

