-- ==== Sys2Proof/Laws/Poll.lean ====
section
/-! SUPPORT. What the phases of the two polls and of the request event can do, said once: the pull
and the stamp, the liveness rules, and each outcome of the state switch. -/

namespace Sys2Proof.Machine

/-! ### Frames -/

theorem SameBytes.rxbuf_of {s t : State} (hm : t.c.rxbuf = s.c.rxbuf)
    (he : t.free.rxEpoch = s.free.rxEpoch) : SameBytes .rxbuf s t :=
  fun a => byteOf_congr _ a hm he

theorem SameBytes.outbuf_of {s t : State} (hm : t.p.outbuf = s.p.outbuf)
    (he : t.free.outEpoch = s.free.outEpoch) : SameBytes .outbuf s t :=
  fun a => byteOf_congr _ a hm he

theorem PeripheralSide.of {s t : State} (hp : t.p = s.p)
    (hf : t.free.outEpoch = s.free.outEpoch) (hc : t.cfg = s.cfg) (hi : t.inputs = s.inputs) :
    PeripheralSide s t :=
  ⟨hp, hf, SameBytes.outbuf_of (by rw [hp]) hf, hc, hi⟩

theorem ControllerSide.of {s t : State} (hc : t.c = s.c)
    (hf : t.free.rxEpoch = s.free.rxEpoch) (hg : t.cfg = s.cfg) (hi : t.inputs = s.inputs) :
    ControllerSide s t :=
  ⟨hc, hf, SameBytes.rxbuf_of (by rw [hc]) hf, hg, hi⟩

/-! ### The pull and the stamp -/

variable (now : Word32) (rx : List Byte) (st : Status) (s : State)

@[simp] theorem pullPhase_p : (pullPhase now rx s).p = s.p := by simp [pullPhase]
@[simp] theorem pullPhase_bus : (pullPhase now rx s).bus = drainedBus s rx := by
  simp [pullPhase, drainedBus]
@[simp] theorem pullPhase_cfg : (pullPhase now rx s).cfg = s.cfg := by simp [pullPhase]
@[simp] theorem pullPhase_inputs : (pullPhase now rx s).inputs = s.inputs := by simp [pullPhase]
@[simp] theorem pullPhase_out : (pullPhase now rx s).out = [] := by simp [pullPhase]
@[simp] theorem pullPhase_ret : (pullPhase now rx s).ret = .none := by simp [pullPhase]
@[simp] theorem pullPhase_free : (pullPhase now rx s).free = s.free := by simp [pullPhase]

/-- The registers after the pull and the stamp: the buffer, its cursor and the stamp are new. -/
theorem pullPhase_c : (pullPhase now rx s).c =
    { s.c with
      rxbuf := (pullPhase now rx s).c.rxbuf
      dataLoc := (pullPhase now rx s).c.dataLoc
      lastBytesReceivedMs := stampAfter now rx s } := by
  simp only [pullPhase, stampArrival_c]
  rw [pull_unpulled]
  simp [stampAfter, pulledByController]

theorem pullPhase_unpulled : (pullPhase now rx s).c.unpulled = s.c.unpulled := by
  rw [pullPhase_c]; rfl

@[simp] theorem pullPhase_state : (pullPhase now rx s).c.state = s.c.state := by
  rw [pullPhase_c]
@[simp] theorem pullPhase_connected : (pullPhase now rx s).c.connected = s.c.connected := by
  rw [pullPhase_c]
@[simp] theorem pullPhase_pendingReceiver :
    (pullPhase now rx s).c.pendingReceiver = s.c.pendingReceiver := by
  rw [pullPhase_c]
@[simp] theorem pullPhase_capacity : (pullPhase now rx s).c.capacity = s.c.capacity := by
  rw [pullPhase_c]
@[simp] theorem pullPhase_expectedDataSize :
    (pullPhase now rx s).c.expectedDataSize = s.c.expectedDataSize := by
  rw [pullPhase_c]
@[simp] theorem pullPhase_expectedChecksum :
    (pullPhase now rx s).c.expectedChecksum = s.c.expectedChecksum := by
  rw [pullPhase_c]
@[simp] theorem pullPhase_lastPingMs : (pullPhase now rx s).c.lastPingMs = s.c.lastPingMs := by
  rw [pullPhase_c]
@[simp] theorem pullPhase_timeoutPeriod :
    (pullPhase now rx s).c.timeoutPeriod = s.c.timeoutPeriod := by
  rw [pullPhase_c]
@[simp] theorem pullPhase_reqMark : (pullPhase now rx s).c.reqMark = s.c.reqMark := by
  rw [pullPhase_c]
@[simp] theorem pullPhase_lastBytesReceivedMs :
    (pullPhase now rx s).c.lastBytesReceivedMs = stampAfter now rx s := by
  rw [pullPhase_c]

/-- Whether two states show the same pull depends on the buffer, its epoch, its cursor and the
stamp alone. -/
theorem PullShown.congr {now : Word32} {rx : List Byte} {s t u : State} (h : PullShown now rx s t)
    (hm : u.c.rxbuf = t.c.rxbuf) (hd : u.c.dataLoc = t.c.dataLoc)
    (he : u.free.rxEpoch = t.free.rxEpoch)
    (hl : u.c.lastBytesReceivedMs = t.c.lastBytesReceivedMs) : PullShown now rx s u := by
  have hb := SameBytes.rxbuf_of hm he
  refine ⟨by rw [hd, h.cursor], ?_, fun a ha => by rw [hb, h.beyond a ha], by rw [hl, h.stamp]⟩
  rw [← h.stored, storedBytes, storedBytes, hd]
  exact bytesFrom_congr _ _ _ fun k _ _ => hb k

/-- Phase 1 of a poll, once and whole (41_controller_update.md R131, R132). -/
theorem pullPhase_shown (h : s.c.dataLoc ≤ s.c.capacity) :
    PullShown now rx s (pullPhase now rx s) := by
  obtain ⟨h1, h2, h3⟩ :=
    pull_spec (drainController (arriveAtController rx s.start)) (pulledByController s rx) h
  have hs : ∀ q, SameBytes .rxbuf q (stampArrival now (pulledByController s rx) q) :=
    fun q => SameBytes.rxbuf_of (by simp [stampArrival_c]) (by simp)
  have hc : ∀ q, (stampArrival now (pulledByController s rx) q).c.dataLoc = q.c.dataLoc :=
    fun q => by simp [stampArrival_c]
  have hp : pullPhase now rx s = stampArrival now (pulledByController s rx)
      (pull (pulledByController s rx) (drainController (arriveAtController rx s.start))) := rfl
  have hb : storedBytes (drainController (arriveAtController rx s.start)) = storedBytes s :=
    bytesFrom_congr _ _ _ fun _ _ _ => rfl
  rw [hb] at h1 h2
  refine ⟨?_, ?_, fun a ha => ?_, pullPhase_lastBytesReceivedMs now rx s⟩
  · rw [hp, hc]; exact h1
  · rw [hp, storedBytes, hc, bytesFrom_congr _ _ _ fun k _ _ => hs _ k]; exact h2
  · rw [hp, hs, h3 a (by rw [h1]; exact ha)]; rfl

/-- With the buffer full the pull only stamps. -/
theorem pullPhase_full (h : s.c.dataLoc = s.c.capacity) :
    (pullPhase now rx s).c = { s.c with lastBytesReceivedMs := stampAfter now rx s } := by
  simp only [pullPhase, stampArrival_c]
  rw [pull_full (drainController (arriveAtController rx s.start)) _ h]
  rfl

/-- A poll that finds nothing at the port pulls nothing. -/
theorem pullPhase_nothing (h : s.bus.cRx = []) : pullPhase now [] s = s.start := by
  simp [pullPhase, State.start, arriveAtController, drainController, stampArrival, h]
  rw [← h]

theorem frameComplete_pullPhase (h : s.c.dataLoc ≤ s.c.capacity) :
    frameComplete (pullPhase now rx s) = true ↔ frameFull rx s := by
  have hc := (pullPhase_shown now rx s h).cursor
  simp only [frameComplete, frameFull, decide_eq_true_eq, pullPhase_capacity, ← hc]
  exact ⟨fun h => by rw [h], fun h => BitVec.eq_of_toNat_eq h⟩

/-- A read from the start of a full buffer gives the bytes of the frame. -/
theorem memRead_pullPhase (h : s.c.dataLoc ≤ s.c.capacity) (hf : frameFull rx s) (n : Nat)
    (hn : n ≤ s.c.capacity.toNat) :
    memRead .rxbuf 0 n (pullPhase now rx s) = .ok ((frameAfter rx s).take n) := by
  have hs := pullPhase_shown now rx s h
  rw [memRead_inside _ _ _ _ (by simpa using hn), ← hs.stored, storedBytes, bytesFrom_take]
  rw [hs.cursor, hf]; exact hn

/-! ### The liveness rules -/

theorem noiseDeferred_pullPhase : noiseDeferred now (pullPhase now rx s) = true ↔
    s.c.state = .idle ∧ (sinceLastByte now rx s).toNat ≤ 10 := by
  simp [noiseDeferred, sinceLastByte, Config.noiseWindowMs, BitVec.le_def]

theorem silenceExpired_pullPhase : silenceExpired now (pullPhase now rx s) = true ↔
    s.c.state ≠ .idle ∧ s.c.timeoutPeriod.toNat < (sinceLastByte now rx s).toNat := by
  simp [silenceExpired, sinceLastByte, BitVec.lt_def]

/-- A poll that sees time pass since the last byte has pulled none. -/
theorem nothing_pulled {now : Word32} {rx : List Byte} {s : State}
    (h : 0 < (sinceLastByte now rx s).toNat) : s.bus.cRx = [] ∧ rx = [] := by
  unfold sinceLastByte stampAfter pulledByController at h
  by_cases hh : s.bus.cRx ++ rx = []
  · simpa using hh
  · rw [if_neg hh] at h; simp [elapsed] at h

/-! ### The state switch -/

/-- Every outcome of the phases after the pull: nothing, the liveness timeout, or one arm. -/
theorem afterPull_next {now : Word32} {st : Status} {s t : State}
    (h : afterPull now st s = .next t) :
    t = s ∨
    (s.c.state ≠ .idle ∧ t = raise .silence s) ∨
    (s.c.state = .idle ∧ t = idleArm now st s) ∨
    (s.c.state = .awaitingPingResponse ∧ s.c.dataLoc = s.c.capacity ∧
      t = acceptPingResponse now (decodePingResponse (s.bytesFrom .rxbuf 0 7)) s) ∨
    (s.c.state = .awaitingStartOfStream ∧ s.c.dataLoc = s.c.capacity ∧
      t = acceptStartOfStream
        (decodeStartOfStream s.cfg.cksumWidth (s.bytesFrom .rxbuf 0 s.sosSize)) s) ∨
    (s.c.state = .receivingData ∧ s.c.dataLoc = s.c.capacity ∧
      t = completeTransfer (s.bytesFrom .rxbuf 0 s.c.expectedDataSize.toNat)
        (s.bytesFrom .rxbuf 0 s.c.capacity.toNat) s) ∨
    (s.c.state = .receivingData ∧ s.c.dataLoc ≠ s.c.capacity ∧ chunkRequestDue s = true ∧
      t = advanceReqMark (emitRequestFrom 32 s)) := by
  unfold afterPull at h
  split at h
  · injection h with h; exact .inl h.symm
  split at h
  · rename_i hs
    injection h with h
    exact .inr (.inl ⟨by simp [silenceExpired] at hs; exact hs.1, h.symm⟩)
  unfold stateSwitch at h
  split at h <;> rename_i hst
  · injection h with h; exact .inr (.inr (.inl ⟨hst, h.symm⟩))
  · unfold pingResponseArm at h
    split at h
    · rename_i hf
      obtain ⟨buf, hb, h⟩ := withBytes_next h
      injection h with h
      rw [(memRead_ok _ hb).2] at h
      exact .inr (.inr (.inr (.inl ⟨hst, by simpa [frameComplete] using hf, h.symm⟩)))
    · injection h with h; exact .inl h.symm
  · unfold startOfStreamArm at h
    split at h
    · rename_i hf
      obtain ⟨buf, hb, h⟩ := withBytes_next h
      injection h with h
      rw [(memRead_ok _ hb).2] at h
      exact .inr (.inr (.inr (.inr (.inl ⟨hst, by simpa [frameComplete] using hf, h.symm⟩))))
    · injection h with h; exact .inl h.symm
  · unfold receivingArm at h
    split at h
    · rename_i hf
      obtain ⟨payload, hp, h⟩ := withBytes_next h
      obtain ⟨buf, hb, h⟩ := withBytes_next h
      injection h with h
      rw [(memRead_ok _ hb).2, (memRead_ok _ hp).2] at h
      exact .inr (.inr (.inr (.inr (.inr (.inl
        ⟨hst, by simpa [frameComplete] using hf, h.symm⟩)))))
    · rename_i hf
      split at h
      · rename_i hd
        injection h with h
        exact .inr (.inr (.inr (.inr (.inr (.inr
          ⟨hst, by simpa [frameComplete] using hf, hd, h.symm⟩)))))
      · injection h with h; exact .inl h.symm

/-- A poll in Idle that is not deferred runs the Idle arm on the state as it was: it has pulled
nothing. -/
theorem exec_cUpdate_idle {now : Word32} {rx : List Byte} {st : Status} {s : State}
    (hi : s.c.state = .idle) (hs : 10 < (sinceLastByte now rx s).toNat) :
    exec (.cUpdate now rx st) s = .next (idleArm now st s.start) := by
  obtain ⟨h, rfl⟩ := nothing_pulled (by omega : 0 < (sinceLastByte now rx s).toNat)
  show afterPull _ _ _ = _
  rw [afterPull, if_neg (by rw [noiseDeferred_pullPhase]; omega),
    if_neg (by rw [silenceExpired_pullPhase]; simp [hi]), pullPhase_nothing _ _ h, stateSwitch]
  simp [hi]

/-- A poll in a non-Idle state within the liveness timeout runs the state's arm after the pull. -/
theorem exec_cUpdate_live {now : Word32} {rx : List Byte} {st : Status} {s : State}
    (hi : s.c.state ≠ .idle)
    (hs : (sinceLastByte now rx s).toNat ≤ s.c.timeoutPeriod.toNat) :
    exec (.cUpdate now rx st) s = stateSwitch now st (pullPhase now rx s) := by
  show afterPull _ _ _ = _
  rw [afterPull, if_neg (by rw [noiseDeferred_pullPhase]; simp [hi]),
    if_neg (by rw [silenceExpired_pullPhase]; omega)]

/-! ### The peripheral -/

/-- Ping detection sends at most the answer and changes nothing else. -/
theorem detectPing_eq (pulled : List Byte) : detectPing pulled s =
    if pulled = [0xA0#8] then
      emitSend (encodePingResponse s.p.peripheralType s.p.peripheralVersion) s
    else s := by
  have h : isLonePing pulled = true ↔ pulled = [0xA0#8] := by
    match pulled with
    | [] => simp [isLonePing, Config.pingSize]
    | [b] =>
      simp [isLonePing, Config.pingSize, decodePing, byteAt, Config.tagPing]
    | a :: b :: rest => simp [isLonePing, Config.pingSize]
  unfold detectPing
  by_cases hp : pulled = [0xA0#8]
  · rw [if_pos (h.2 hp), if_pos hp]
  · rw [if_neg (fun hh => hp (h.1 hh)), if_neg hp]

@[simp] theorem detectPing_c (pulled : List Byte) : (detectPing pulled s).c = s.c := by
  rw [detectPing_eq]; split <;> rfl
@[simp] theorem detectPing_p (pulled : List Byte) : (detectPing pulled s).p = s.p := by
  rw [detectPing_eq]; split <;> rfl
@[simp] theorem detectPing_cfg (pulled : List Byte) : (detectPing pulled s).cfg = s.cfg := by
  rw [detectPing_eq]; split <;> rfl
@[simp] theorem detectPing_inputs (pulled : List Byte) :
    (detectPing pulled s).inputs = s.inputs := by
  rw [detectPing_eq]; split <;> rfl
@[simp] theorem detectPing_ret (pulled : List Byte) : (detectPing pulled s).ret = s.ret := by
  rw [detectPing_eq]; split <;> rfl
@[simp] theorem detectPing_free (pulled : List Byte) : (detectPing pulled s).free = s.free := by
  rw [detectPing_eq]; split <;> rfl

/-- Every outcome of the chunked send: nothing, a full chunk, the exact tail, or the bare
release. -/
theorem chunkedSend_next {s t : State} (h : chunkedSend s = .next t) :
    (s.p.state = .idle ∧ t = s) ∨
    (s.p.state = .sendingData ∧ 32 ≤ s.unsent ∧
      t = advanceSendCursor (emitSend (s.bytesFrom .outbuf s.p.sendCursor.toNat 32) s)) ∨
    (s.p.state = .sendingData ∧ 0 < s.unsent ∧ s.unsent < 32 ∧
      t = releaseOutbuf (emitSend (s.bytesFrom .outbuf s.p.sendCursor.toNat s.unsent) s)) ∨
    (s.p.state = .sendingData ∧ s.unsent = 0 ∧ t = releaseOutbuf s) := by
  unfold chunkedSend at h
  split at h <;> rename_i hst
  · injection h with h; exact .inl ⟨hst, h.symm⟩
  split at h
  · rename_i hu
    obtain ⟨chunk, hb, h⟩ := withBytes_next h
    injection h with h
    rw [(memRead_ok _ hb).2] at h
    exact .inr (.inl ⟨hst, hu, h.symm⟩)
  rename_i hu
  have hu' : s.unsent < 32 := by simpa [Config.chunkSize] using hu
  split at h
  · rename_i hp
    obtain ⟨tail, hb, h⟩ := withBytes_next h
    injection h with h
    rw [(memRead_ok _ hb).2] at h
    exact .inr (.inr (.inl ⟨hst, hp, hu', h.symm⟩))
  · injection h with h
    exact .inr (.inr (.inr ⟨hst, by omega, h.symm⟩))

/-- A provider result in its domain, as the peripheral takes it. -/
theorem providerInRange_iff (bytes : List Byte) (n : Nat) :
    providerInRange bytes n = true ↔ n ≤ 65535 ∧ n ≤ bytes.length := by
  rw [providerInRange, Bool.and_eq_true, decide_eq_true_eq, decide_eq_true_eq]
  rfl

/-- The start of a transfer never fails: the header is computed from the payload just loaded. -/
theorem beginTransfer_eq (payload : List Byte) (h : payload.length ≤ 65535) :
    beginTransfer payload s = .next (setPeriphState .sendingData
      (emitSend (encodeStartOfStream (BitVec.ofNat 16 payload.length)
        (Config.cksum s.cfg.cksumWidth payload)) (loadOutbuf payload s))) := by
  unfold beginTransfer
  have hn : (BitVec.ofNat 16 payload.length).toNat = payload.length := by
    simp; omega
  simp only [loadOutbuf_p, loadOutbuf_cfg, hn]
  rw [memRead_inside _ _ _ _ (by simp; omega), withBytes_ok,
    bytesFrom_loadOutbuf _ _ _ _ (by omega)]
  simp

/-- Every outcome of the request event: ignored while sending, or the start of a transfer. -/
theorem onRequest_next {bytes : List Byte} {n : Nat} {s t : State}
    (h : onRequest bytes n s = .next t) :
    (s.p.state = .sendingData ∧ t = s) ∨
    (s.p.state = .idle ∧ n ≤ 65535 ∧ n ≤ bytes.length ∧
      t = setPeriphState .sendingData (emitSend (encodeStartOfStream (BitVec.ofNat 16 n)
        (Config.cksum s.cfg.cksumWidth (bytes.take n))) (loadOutbuf (bytes.take n) s))) := by
  unfold onRequest at h
  split at h <;> rename_i hst
  · injection h with h; exact .inl ⟨hst, h.symm⟩
  split at h
  · rename_i hp
    obtain ⟨h1, h2⟩ := (providerInRange_iff bytes n).1 hp
    have hl : (bytes.take n).length = n := by simp; omega
    rw [beginTransfer_eq _ _ (by omega), hl] at h
    injection h with h
    exact .inr ⟨hst, h1, h2, h.symm⟩
  · cases h

end Sys2Proof.Machine
end

