-- ==== Sys2Proof/Tests/Slice0.lean ====
section
/-! SUPPORT. Tests against the spec's own vectors (95_test_vectors.md; each test names its vector),
the WellFormed smoke tests, and for each statement with hypotheses a witness that meets them. -/

namespace Sys2Proof.Tests

open Sys2Proof Sys2Proof.Machine

/-! ### Helpers -/

/-- The outcome is a next state with the property. -/
def holds (o : Host.Outcome State Fault Refusal) (p : State → Bool) : Bool :=
  match o with
  | .next s => p s
  | .fault _ => false
  | .refused _ => false

/-- The outcome is this refusal. -/
def refusedWith (o : Host.Outcome State Fault Refusal) (r : Refusal) : Bool :=
  match o with
  | .next _ => false
  | .fault _ => false
  | .refused q => decide (q = r)

/-- A controller in a state, with a buffer of `n` bytes that holds `stored`, receiver 1 pending,
the last byte at time 0 and a timeout of 100. -/
def ctrl (x : CtrlState) (n : Nat) (stored : List Byte) : State :=
  { State.reset with c := { State.reset.c with
      state := x
      connected := true
      pendingReceiver := some 1
      capacity := BitVec.ofNat 17 n
      rxbuf := Memory.ofBytes 0 stored
      dataLoc := BitVec.ofNat 17 stored.length
      timeoutPeriod := 100#32 } }

/-- A controller that receives `d` bytes padded to `n`. -/
def receiving (d n : Nat) (stored : List Byte) (mark : Nat) : State :=
  let s := ctrl .receivingData n stored
  { s with c := { s.c with
      expectedDataSize := BitVec.ofNat 16 d
      reqMark := BitVec.ofNat 17 mark } }

/-- The same state with another checksum expected. -/
def expecting (ck : List Byte) (s : State) : State :=
  { s with c := { s.c with expectedChecksum := ck } }

/-- The same state with no receiver pending. -/
def unrequested (s : State) : State := { s with c := { s.c with pendingReceiver := none } }

/-- A peripheral of identity 7, 3 that has sent `cursor` bytes of a payload. -/
def sending (payload : List Byte) (cursor : Nat) : State :=
  { State.reset with p := {
      state := .sendingData
      peripheralType := 7#32
      peripheralVersion := 3#16
      outLen := BitVec.ofNat 16 payload.length
      outbuf := Memory.ofBytes 0 payload
      sendCursor := BitVec.ofNat 16 cursor } }

/-- An Idle peripheral of identity 7, 3. -/
def identified : State :=
  { State.reset with p := Periph.reset 7#32 3#16 }

/-- The bytes 0, 1, 2, … -/
def counting (n : Nat) : List Byte := (List.range n).map (BitVec.ofNat 8)

/-- The same state with a transport. -/
def withBus (b : Bus) (s : State) : State := { s with bus := b }

/-- The same state with a trace. -/
def withInputs (l : List Stimulus) (s : State) : State := { s with inputs := l }

/-! ### Decoding, from words written out by the formats of R91 to R94 -/

theorem test_decode_ping_word : decodeTableWord 8 0b10100000 = some .ping := by decide

theorem test_decode_pingResp_word :
    decodeTableWord 56
      0b10100001_00010010_00110100_01010110_01111000_10011010_10111100 =
        some (.pingResp 0x12345678#32 0x9ABC#16) := by decide

theorem test_decode_sos4_word :
    decodeTableWord 56
      0b10100010_00000001_00000010_00001101_10100110_00101110_00111100 =
        some (.sos4 258#16 [0x0D#8, 0xA6#8, 0x2E#8, 0x3C#8]) := by decide

/-- T11. -/
theorem test_decode_sos16_word :
    decodeTableWord 152 0xA2_0040_B2D3F56BC197FD985D5965079B5E7148 = some (.sos16 64#16
      [0xB2#8, 0xD3#8, 0xF5#8, 0x6B#8, 0xC1#8, 0x97#8, 0xFD#8, 0x98#8,
       0x5D#8, 0x59#8, 0x65#8, 0x07#8, 0x9B#8, 0x5E#8, 0x71#8, 0x48#8]) := by decide

theorem test_decode_data_word : decodeTableWord 8 0b11111111 = some (.data 0xFF#8) := by decide

/-- A tag value is data to a receiver that expects data (R94). -/
theorem test_decode_data_of_tag_value :
    decode .data [0xA0#8] = .ok (.data 0xA0#8) := by decide

theorem test_decode_rejects_wrong_tag :
    decode .pingResp [0xA2#8, 0#8, 0#8, 0#8, 7#8, 0#8, 3#8] =
      .error (.wrongTag .pingResp 0xA2#8) := by decide

theorem test_decode_rejects_wrong_length :
    decode .sos16 [0xA2#8, 0#8, 0x28#8, 0x0D#8, 0xA6#8, 0x2E#8, 0x3C#8] =
      .error (.wrongLength .sos16 7) := by decide

/-- T6. -/
theorem test_encode_pingResp :
    encode (.pingResp 0x12345678#32 0x9ABC#16) =
      some [0xA1#8, 0x12#8, 0x34#8, 0x56#8, 0x78#8, 0x9A#8, 0xBC#8] := by decide

/-- T10: 256 shows the byte order of `data_size`. -/
theorem test_encode_sos4 :
    encode (.sos4 256#16 [0#8, 0#8, 0#8, 0#8]) =
      some [0xA2#8, 1#8, 0#8, 0#8, 0#8, 0#8, 0#8] := by decide

/-! ### WellFormed smoke tests: an ill-formed term for each check -/

theorem test_wf_sos4 : (Instr.sos4 1#16 [1#8, 2#8, 3#8]).wellFormed = false := by decide
theorem test_wf_sos16 : (Instr.sos16 1#16 [1#8, 2#8, 3#8, 4#8]).wellFormed = false := by decide
theorem test_wf_decodePing : (Instr.decodePing []).wellFormed = false := by decide
theorem test_wf_decodePingResponse :
    (Instr.decodePingResponse (counting 8)).wellFormed = false := by decide
theorem test_wf_encodeStartOfStream :
    (Instr.encodeStartOfStream 1#16 (counting 5)).wellFormed = false := by decide
theorem test_wf_decodeStartOfStream :
    (Instr.decodeStartOfStream (counting 4)).wellFormed = false := by decide
theorem test_wf_pOnRequest_short : (Instr.pOnRequest [1#8] 2).wellFormed = false := by decide
theorem test_wf_pOnRequest_long :
    (Instr.pOnRequest (List.replicate 65536 0#8) 65536).wellFormed = false := by decide

/-! ### Quantities -/

/-- T20. -/
theorem test_pad32 : [1, 32, 33, 40, 65504, 65505, 65535].map (fun d => (pad32 d).toNat) =
    [32, 32, 64, 64, 65504, 65536, 65536] := by decide

/-- T21, T22, T23. -/
theorem test_elapsed : elapsed 111#32 100#32 = 11#32 ∧ elapsed 5#32 0xFFFFFFFB#32 = 10#32 ∧
    elapsed 99#32 100#32 = 0xFFFFFFFF#32 := by decide

/-! ### One step of each instruction -/

theorem test_ping : holds (exec .ping State.reset) (fun t => t.bus.pRx == [0xA0#8]) := by decide

/-- T93: delivery does not need credit. -/
theorem test_pingResp : holds (exec (.pingResp 7#32 3#16) State.reset)
    (fun t => t.bus.cRx == [0xA1#8, 0#8, 0#8, 0#8, 7#8, 0#8, 3#8] && t.bus.credit == 0) := by
  decide

theorem test_sos4 : holds (exec (.sos4 40#16 (counting 4)) State.reset)
    (fun t => t.bus.cRx == [0xA2#8, 0#8, 40#8, 0#8, 1#8, 2#8, 3#8]) := by decide

theorem test_sos16 : holds (exec (.sos16 256#16 (counting 16)) State.reset)
    (fun t => t.bus.cRx == [0xA2#8, 1#8, 0#8] ++ counting 16) := by decide

theorem test_data : holds (exec (.data 9#8) (withBus { Bus.reset with credit := 2 } State.reset))
    (fun t => t.bus.cRx == [9#8] && t.bus.credit == 1) := by decide

/-- T1. -/
theorem test_encodePing :
    holds (exec .encodePing State.reset) (fun t => t.ret == .bytes [0xA0#8]) := by decide

/-- T3. -/
theorem test_decodePing : holds (exec (.decodePing [0xA1#8]) State.reset)
    (fun t => t.ret == .ping { valid := false }) := by decide

/-- T6. -/
theorem test_encodePingResponse :
    holds (exec (.encodePingResponse 0x12345678#32 0x9ABC#16) State.reset)
      (fun t => t.ret == .bytes [0xA1#8, 0x12#8, 0x34#8, 0x56#8, 0x78#8, 0x9A#8, 0xBC#8]) := by
  decide

/-- T8. -/
theorem test_decodePingResponse :
    holds (exec (.decodePingResponse
        [0xA1#8, 0x12#8, 0x34#8, 0x56#8, 0x78#8, 0x9A#8, 0xBC#8]) State.reset)
      (fun t => t.ret == .pingResponse
        { valid := true, peripheralType := 0x12345678#32, peripheralVersion := 0x9ABC#16 }) := by
  decide

/-- T8: the payload of a wrong tag does not leak. -/
theorem test_decodePingResponse_wrong_tag :
    holds (exec (.decodePingResponse
        [0xA2#8, 0x12#8, 0x34#8, 0x56#8, 0x78#8, 0x9A#8, 0xBC#8]) State.reset)
      (fun t => t.ret == .pingResponse
        { valid := false, peripheralType := 0#32, peripheralVersion := 0#16 }) := by decide

/-- T10. -/
theorem test_encodeStartOfStream :
    holds (exec (.encodeStartOfStream 40#16 [0x0D#8, 0xA6#8, 0x2E#8, 0x3C#8]) State.reset)
      (fun t => t.ret == .bytes [0xA2#8, 0#8, 0x28#8, 0x0D#8, 0xA6#8, 0x2E#8, 0x3C#8]) := by
  decide

/-- T12: zero size is valid to the decoder. -/
theorem test_decodeStartOfStream :
    holds (exec (.decodeStartOfStream
        [0xA2#8, 0#8, 0#8, 0x0D#8, 0xA6#8, 0x2E#8, 0x3C#8]) State.reset)
      (fun t => t.ret == .startOfStream
        { valid := true, dataSize := 0#16,
          streamChecksum := [0x0D#8, 0xA6#8, 0x2E#8, 0x3C#8] }) := by decide

/-- T44: the excess bytes are discarded. -/
theorem test_cUpdate_pingResponse :
    holds (exec (.cUpdate 30#32 [0#8, 3#8, 0xFF#8, 0xFF#8] .ok)
        (unrequested (ctrl .awaitingPingResponse 7 [0xA1#8, 0#8, 0#8, 0#8, 7#8])))
      (fun t => t.c.state == .idle && t.c.connected && t.c.deviceType == 7#32 &&
        t.c.deviceVersion == 3#16 && t.c.lastPingMs == 30#32 && t.c.dataLoc == 7#17) := by
  decide

/-- T52, with one byte arriving. -/
theorem test_cUpdate_chunk_request :
    holds (exec (.cUpdate 35#32 [9#8] .ok) (receiving 40 64 [] 0))
      (fun t => t.out == [.requestFrom 0 32] && t.c.reqMark == 32#17 &&
        t.c.dataLoc == 1#17 && t.c.lastBytesReceivedMs == 35#32) := by decide

/-- T60. -/
theorem test_cNew : holds (exec .cNew (ctrl .receivingData 32 [1#8]))
    (fun t => t.c == State.reset.c) := by decide

/-- T61. -/
theorem test_cRequestData : holds (exec (.cRequestData 5) State.reset)
    (fun t => t.c.pendingReceiver == some 5 && t.c.state == .idle && t.out == []) := by decide

/-- T62. -/
theorem test_cRequestData_second :
    refusedWith (exec (.cRequestData 5) (ctrl .idle 0 [])) .requestPending := by decide

/-- T64. -/
theorem test_cSetTimeoutPeriod : holds (exec (.cSetTimeoutPeriod 0xFFFFFFFF#32) State.reset)
    (fun t => t.c.timeoutPeriod == 0xFFFFFFFF#32) := by decide

theorem test_cConnected : holds (exec .cConnected (ctrl .idle 0 []))
    (fun t => t.ret == .bool true) := by decide

theorem test_cGetState : holds (exec .cGetState (ctrl .receivingData 32 []))
    (fun t => t.ret == .ctrlState .receivingData) := by decide

theorem test_cDeviceType : holds (exec .cDeviceType
      { State.reset with c := { State.reset.c with deviceType := 7#32 } })
    (fun t => t.ret == .word32 7#32) := by decide

theorem test_cDeviceVersion : holds (exec .cDeviceVersion
      { State.reset with c := { State.reset.c with deviceVersion := 3#16 } })
    (fun t => t.ret == .word16 3#16) := by decide

theorem test_pNew : holds (exec (.pNew 7#32 3#16) (sending [1#8] 0))
    (fun t => t.p == Periph.reset 7#32 3#16 && t.bus.onRequestRegistered) := by decide

/-- T76: the Ping is answered before the tail, which is exactly the 8 unsent bytes. -/
theorem test_pUpdate_ping_then_tail :
    holds (exec (.pUpdate [0xA0#8]) (sending (counting 40) 32))
      (fun t => t.out == [.send [0xA1#8, 0#8, 0#8, 0#8, 7#8, 0#8, 3#8],
        .send ((counting 40).drop 32)] && t.p == Periph.reset 7#32 3#16) := by decide

/-- T71. -/
theorem test_pUpdate_two_bytes : holds (exec (.pUpdate [0xA0#8, 0xA0#8]) identified)
    (fun t => t.out == [] && t.p == identified.p && t.bus.pRx == []) := by decide

/-- T73, but for the checksum, which is a free value. -/
theorem test_pOnRequest : holds (exec (.pOnRequest (counting 40) 40) identified)
    (fun t => t.p.state == .sendingData && t.p.outLen == 40#16 && t.p.sendCursor == 0#16 &&
      t.p.outbuf == Memory.ofBytes 0 (counting 40)) := by decide

/-- T77. -/
theorem test_pOnRequest_sending : holds (exec (.pOnRequest [] 9) (sending (counting 40) 0))
    (fun t => t.p == (sending (counting 40) 0).p && t.out == []) := by decide

/-- T96, for one byte. -/
theorem test_fill :
    holds (execBus (.fill 0x55#8) (withBus { Bus.reset with credit := 24 } State.reset))
      (fun t => t.bus.cRx == [0x55#8] && t.bus.credit == 23) := by decide

/-- T98. -/
theorem test_fireRequest :
    holds (execBus (.fireRequest [] 0)
        (withBus { Bus.reset with reqEvents := 1 } (sending (counting 40) 0)))
      (fun t => t.bus.reqEvents == 0 && t.p.state == .sendingData && t.out == []) := by decide

/-- A placed word is fetched and run. -/
theorem test_step_runs_placed_word :
    holds (step (State.reset.withFetchWord 8 0xA0)) (fun t => t.bus.pRx == [0xA0#8]) := by decide

/-- Raw bytes with a wrong tag reach the controller, and the sentinel of R99 is read from them. -/
theorem test_step_wrong_tag :
    holds (step (withInputs [.wire .pingResp (0xA0#8 :: counting 6)] State.reset))
      (fun t => t.bus.cRx == 0xA0#8 :: counting 6 && t.inputs == [] && t.ret == .pingResponse
        { valid := false, peripheralType := 0#32, peripheralVersion := 0#16 }) := by decide

/-- R196: two bytes at the peripheral are no lone Ping, but they reach its port. -/
theorem test_step_wrong_length :
    holds (step (withInputs [.wire .ping [0xA0#8, 0xA0#8]] State.reset))
      (fun t => t.bus.pRx == [0xA0#8, 0xA0#8] && t.inputs == [] && t.ret == .none) := by decide

/-! ### Witnesses: for each statement with hypotheses, operands and a state that meet them

The name after `witness_` is the statement's; each clause has its own, at a boundary of its range
where it has one. -/

theorem witness_WirePacketsDecodeToThemselves :
    (Instr.sos4 0xFFFF#16 (counting 4)).wellFormed = true ∧
    formatOf (.sos4 0xFFFF#16 (counting 4)) = some .sos4 ∧
    (Instr.sos16 0#16 (counting 16)).wellFormed = true ∧
    Instr.cNew.wellFormed = true ∧ formatOf .cNew = none := by decide

theorem witness_DecodedPacketsEncodeBack :
    decode .pingResp [0xA1#8, 0xFF#8, 0#8, 0#8, 7#8, 0#8, 3#8] =
      .ok (.pingResp 0xFF000007#32 3#16) := by decide

theorem witness_CodecRoundTrips :
    (counting 4).length = CksumWidth.w4.bytes ∧ (counting 16).length = CksumWidth.w16.bytes ∧
    (0xA1#8 :: counting 6).length = 7 ∧ byteAt (0xA1#8 :: counting 6) 0 = 0xA1#8 ∧
    (0xA2#8 :: counting 6).length = 3 + CksumWidth.w4.bytes ∧
    byteAt (0xA2#8 :: counting 6) 0 = 0xA2#8 := by decide

theorem witness_WrongTagsGiveTheSentinel :
    byteAt [0xA1#8] 0 ≠ 0xA0#8 ∧ byteAt (0xA0#8 :: counting 6) 0 ≠ 0xA1#8 ∧
    (0xA0#8 :: counting 6).length = 7 ∧ byteAt (0xA1#8 :: counting 18) 0 ≠ 0xA2#8 ∧
    (0xA1#8 :: counting 18).length = 3 + CksumWidth.w16.bytes := by decide

theorem witness_FieldsAreBigEndian :
    byteAt [0xA1#8, 1#8, 2#8, 3#8, 4#8, 5#8, 6#8] 0 = 0xA1#8 ∧
    byteAt [0xA2#8, 1#8, 0#8, 3#8, 4#8, 5#8, 6#8] 0 = 0xA2#8 := by decide

theorem witness_EncodersReturnThePacket :
    (counting 4).length = State.reset.cfg.cksumWidth.bytes := by decide

theorem witness_DecodersReturnTheRecord :
    [0xA0#8].length = 1 ∧ (0xA1#8 :: counting 6).length = 7 ∧
    (0xA2#8 :: counting 6).length = 3 + State.reset.cfg.cksumWidth.bytes := by decide

theorem witness_OtherSizesAreRefused :
    (counting 2).length ≠ 1 ∧ (counting 6).length ≠ 7 ∧
    (counting 6).length ≠ 3 + State.reset.cfg.cksumWidth.bytes ∧
    (counting 5).length ≠ State.reset.cfg.cksumWidth.bytes ∧
    (counting 3).length ≠ 4 ∧ (counting 15).length ≠ 16 := by decide

theorem witness_PacketsReachTheirReceiver :
    (counting 4).length = 4 ∧ (counting 16).length = 16 := by decide

theorem witness_StepRunsTheNextItem :
    (withInputs [.wire .ping [0xA0#8]] State.reset).inputs = .wire .ping [0xA0#8] :: [] ∧
    decode .ping [0xA0#8] = .ok .ping ∧
    (withInputs [.wire .ping [0#8]] State.reset).inputs = .wire .ping [0#8] :: [] ∧
    decode .ping [0#8] = .error (.wrongTag .ping 0#8) ∧
    (withInputs [.wire .sos16 []] State.reset).inputs = .wire .sos16 [] :: [] ∧
    decode .sos16 [] = .error (.wrongLength .sos16 0) ∧
    (withInputs [.op .cNew] State.reset).inputs = .op .cNew :: [] ∧
    (withInputs [.bus (.fill 0#8)] State.reset).inputs = .bus (.fill 0#8) :: [] ∧
    (withInputs [] State.reset).inputs = [] := by decide

theorem witness_PlacedWordRunsNext :
    decodeTableWord 56 0xA1_00000007_0003 = some (.pingResp 7#32 3#16) := by decide

/-- The controller part of the invariant in each non-Idle state, and in Idle. -/
theorem inv_awaitingPing : CtrlInv (ctrl .awaitingPingResponse 7 (counting 3)) := by
  constructor <;> decide

theorem inv_header : CtrlInv (ctrl .awaitingStartOfStream 7 [0xA2#8]) := by
  constructor <;> decide

theorem inv_receiving : CtrlInv (receiving 40 64 (counting 5) 32) := by constructor <;> decide

theorem inv_idle : CtrlInv (ctrl .idle 7 (counting 7)) := by constructor <;> decide

theorem inv_sending : PeriphInv (sending (counting 40) 32) := by constructor <;> decide

/-- A state with a transfer under way on both sides. -/
def busy : State := { receiving 40 64 (counting 5) 32 with p := (sending (counting 40) 32).p }

theorem inv_busy : Inv busy := by
  refine ⟨?_, ?_, by decide⟩ <;> constructor <;> decide

theorem witness_StepKeepsTheInvariant :
    Inv (withInputs [.op (.cUpdate 5#32 [9#8] .ok)] busy) ∧
    holds (step (withInputs [.op (.cUpdate 5#32 [9#8] .ok)] busy)) (fun _ => true) := by
  refine ⟨⟨?_, ?_, by decide⟩, by decide⟩ <;> constructor <;> decide

theorem witness_InvariantStatesNeverFault : Inv busy := inv_busy

theorem witness_StepKeepsBuffersCanonical :
    busy.c.rxbuf.wf = true ∧ busy.p.outbuf.wf = true ∧
    holds (step (withInputs [.op (.pUpdate [])] busy)) (fun _ => true) := by decide

theorem witness_StepKeepsStaticParameters : holds (step State.reset) (fun _ => true) := by decide

theorem witness_RequestDataSetsThePendingReceiver : State.reset.c.pendingReceiver = none := by
  decide

theorem witness_SecondRequestIsRefused : busy.c.pendingReceiver = some 1 := by decide

/-- T24: 10 ms after the last byte the poll is still deferred. -/
theorem witness_IdlePollInNoiseWindowIsDeferred :
    CtrlInv (ctrl .idle 7 (counting 7)) ∧ (ctrl .idle 7 (counting 7)).c.state = .idle ∧
    (sinceLastByte 10#32 [] (ctrl .idle 7 (counting 7))).toNat ≤ 10 ∧
    (sinceLastByte 500#32 [0xFF#8] (ctrl .idle 7 (counting 7))).toNat ≤ 10 := by
  refine ⟨inv_idle, ?_, ?_, ?_⟩ <;> decide

/-- T24: 11 ms after it, not. -/
theorem witness_IdlePollServesThePendingRequest :
    CtrlInv (ctrl .idle 7 (counting 7)) ∧ (ctrl .idle 7 (counting 7)).c.state = .idle ∧
    10 < (sinceLastByte 11#32 [] (ctrl .idle 7 (counting 7))).toNat ∧
    (ctrl .idle 7 (counting 7)).c.pendingReceiver = some 1 := by
  refine ⟨inv_idle, ?_, ?_, ?_⟩ <;> decide

theorem inv_unrequested : CtrlInv (unrequested (ctrl .idle 7 (counting 7))) := by
  constructor <;> decide

theorem witness_IdlePollSendsADuePing :
    CtrlInv (unrequested (ctrl .idle 7 (counting 7))) ∧
    (unrequested (ctrl .idle 7 (counting 7))).c.state = .idle ∧
    10 < (sinceLastByte 20#32 [] (unrequested (ctrl .idle 7 (counting 7)))).toNat ∧
    (unrequested (ctrl .idle 7 (counting 7))).c.pendingReceiver = none ∧
    20 ≤ (elapsed 20#32 (unrequested (ctrl .idle 7 (counting 7))).c.lastPingMs).toNat := by
  refine ⟨inv_unrequested, ?_, ?_, ?_, ?_⟩ <;> decide

theorem witness_IdlePollWithNothingDue :
    CtrlInv (unrequested (ctrl .idle 7 (counting 7))) ∧
    (unrequested (ctrl .idle 7 (counting 7))).c.state = .idle ∧
    10 < (sinceLastByte 19#32 [] (unrequested (ctrl .idle 7 (counting 7)))).toNat ∧
    (unrequested (ctrl .idle 7 (counting 7))).c.pendingReceiver = none ∧
    (elapsed 19#32 (unrequested (ctrl .idle 7 (counting 7))).c.lastPingMs).toNat < 20 := by
  refine ⟨inv_unrequested, ?_, ?_, ?_, ?_⟩ <;> decide

/-- T26, T30. -/
theorem witness_SilenceAbandonsTheExchange :
    (ctrl .awaitingPingResponse 7 (counting 3)).c.state ≠ .idle ∧
    (ctrl .awaitingPingResponse 7 (counting 3)).c.timeoutPeriod.toNat <
      (sinceLastByte 101#32 [] (ctrl .awaitingPingResponse 7 (counting 3))).toNat := by decide

/-- At 100 ms, not more than the timeout, the exchange goes on. -/
theorem witness_IncompletePacketWaits :
    CtrlInv (ctrl .awaitingPingResponse 7 (counting 3)) ∧
    (ctrl .awaitingPingResponse 7 (counting 3)).c.state = .awaitingPingResponse ∧
    (sinceLastByte 100#32 [] (ctrl .awaitingPingResponse 7 (counting 3))).toNat ≤
      (ctrl .awaitingPingResponse 7 (counting 3)).c.timeoutPeriod.toNat ∧
    ¬ frameFull [] (ctrl .awaitingPingResponse 7 (counting 3)) ∧
    CtrlInv (ctrl .awaitingStartOfStream 7 [0xA2#8]) ∧
    ¬ frameFull (counting 5) (ctrl .awaitingStartOfStream 7 [0xA2#8]) := by
  unfold frameFull
  refine ⟨inv_awaitingPing, ?_, ?_, ?_, inv_header, ?_⟩ <;> decide

/-- A PingResponse of which 6 bytes are stored. -/
def almostPing (ty : Byte) : State :=
  ctrl .awaitingPingResponse 7 [0xA1#8, 0#8, 0#8, 0#8, ty, 0#8]

theorem witness_InvalidPingResponseDisconnects :
    CtrlInv (almostPing 0#8) ∧ (almostPing 0#8).c.state = .awaitingPingResponse ∧
    (sinceLastByte 999#32 [3#8] (almostPing 0#8)).toNat ≤
      (almostPing 0#8).c.timeoutPeriod.toNat ∧
    frameFull [3#8] (almostPing 0#8) ∧
    (decodePingResponse (frameAfter [3#8] (almostPing 0#8))).peripheralType = 0#32 := by
  unfold frameFull
  refine ⟨?_, ?_, ?_, ?_, ?_⟩
  · constructor <;> decide
  all_goals decide

theorem witness_ValidPingResponseConnects :
    CtrlInv (almostPing 7#8) ∧ (almostPing 7#8).c.state = .awaitingPingResponse ∧
    (sinceLastByte 999#32 [3#8] (almostPing 7#8)).toNat ≤
      (almostPing 7#8).c.timeoutPeriod.toNat ∧
    frameFull [3#8] (almostPing 7#8) ∧
    (decodePingResponse (frameAfter [3#8] (almostPing 7#8))).peripheralType ≠ 0#32 := by
  unfold frameFull
  refine ⟨?_, ?_, ?_, ?_, ?_⟩
  · constructor <;> decide
  all_goals decide

/-- A StartOfStream of which 6 bytes are stored. -/
def almostHeader (d : Byte) : State :=
  ctrl .awaitingStartOfStream 7 [0xA2#8, 0#8, d, 1#8, 2#8, 3#8]

theorem witness_InvalidStartOfStreamDropsTheRequest :
    CtrlInv (almostHeader 0#8) ∧ (almostHeader 0#8).c.state = .awaitingStartOfStream ∧
    (sinceLastByte 999#32 [4#8] (almostHeader 0#8)).toNat ≤
      (almostHeader 0#8).c.timeoutPeriod.toNat ∧
    frameFull [4#8] (almostHeader 0#8) ∧
    (decodeStartOfStream (almostHeader 0#8).cfg.cksumWidth
      (frameAfter [4#8] (almostHeader 0#8))).dataSize = 0#16 := by
  unfold frameFull
  refine ⟨?_, ?_, ?_, ?_, ?_⟩
  · constructor <;> decide
  all_goals decide

theorem witness_ValidStartOfStreamBeginsReceiving :
    CtrlInv (almostHeader 40#8) ∧ (almostHeader 40#8).c.state = .awaitingStartOfStream ∧
    (sinceLastByte 999#32 [4#8] (almostHeader 40#8)).toNat ≤
      (almostHeader 40#8).c.timeoutPeriod.toNat ∧
    frameFull [4#8] (almostHeader 40#8) ∧
    decodeStartOfStream (almostHeader 40#8).cfg.cksumWidth
      (frameAfter [4#8] (almostHeader 40#8)) =
        { valid := true, dataSize := 40#16, streamChecksum := [1#8, 2#8, 3#8, 4#8] } ∧
    40#16 ≠ 0#16 := by
  unfold frameFull
  refine ⟨?_, ?_, ?_, ?_, ?_, ?_⟩
  · constructor <;> decide
  all_goals decide

/-- A one-byte payload, 31 of whose 32 buffer bytes are stored. -/
def almostDone (ck : List Byte) : State := expecting ck (receiving 1 32 (counting 31) 32)

theorem inv_almostDone (ck : List Byte) (h : ck.length = 4) : CtrlInv (almostDone ck) := by
  have h₀ : CtrlInv (receiving 1 32 (counting 31) 32) := by constructor <;> decide
  exact ⟨h₀.cursor_le, h₀.idle_full, h₀.ping_capacity, h₀.header_capacity, h₀.receiving,
    h₀.mark_aligned, h₀.capacity_allowed, h, h₀.rxbuf_filled⟩

theorem full_almostDone (ck : List Byte) :
    frameAfter [9#8] (almostDone ck) = counting 31 ++ [9#8] := by
  have h : frameAfter [9#8] (almostDone ck) =
      frameAfter [9#8] (receiving 1 32 (counting 31) 32) := rfl
  rw [h]; decide

theorem witness_MatchingTransferCompletes :
    let s := almostDone (Config.cksum .w4 [0#8])
    CtrlInv s ∧ s.c.state = .receivingData ∧ s.c.pendingReceiver = some 1 ∧
    (sinceLastByte 999#32 [9#8] s).toNat ≤ s.c.timeoutPeriod.toNat ∧ frameFull [9#8] s ∧
    Config.cksum s.cfg.cksumWidth ((frameAfter [9#8] s).take s.c.expectedDataSize.toNat) =
      s.c.expectedChecksum := by
  refine ⟨inv_almostDone _ (length_cksum _ _), rfl, rfl, by decide, ?_, ?_⟩
  · rw [frameFull, full_almostDone]; rfl
  · rw [full_almostDone]; rfl

/-- A checksum that is another one in every byte. -/
theorem complement_ne (l : List Byte) (h : l.length = 4) : l ≠ l.map (~~~ ·) := by
  cases l with
  | nil => cases h
  | cons b rest =>
    intro hh
    have hb : b = ~~~ b := (List.cons.inj hh).1
    have := congrArg (fun v : Byte => v.getLsbD 0) hb
    simp at this

theorem witness_MismatchingTransferFails :
    let s := almostDone ((Config.cksum .w4 [0#8]).map (~~~ ·))
    CtrlInv s ∧ s.c.state = .receivingData ∧ s.c.pendingReceiver = some 1 ∧
    (sinceLastByte 999#32 [9#8] s).toNat ≤ s.c.timeoutPeriod.toNat ∧ frameFull [9#8] s ∧
    Config.cksum s.cfg.cksumWidth ((frameAfter [9#8] s).take s.c.expectedDataSize.toNat) ≠
      s.c.expectedChecksum := by
  refine ⟨inv_almostDone _ (by simp [CksumWidth.bytes]), rfl, rfl, by decide, ?_, ?_⟩
  · rw [frameFull, full_almostDone]; rfl
  · rw [full_almostDone]
    exact complement_ne _ (length_cksum _ _)

/-- Both branches: the mark reached, and not yet reached. -/
theorem witness_ChunkRequestsFollowTheMark :
    CtrlInv (receiving 40 64 (counting 5) 0) ∧ CtrlInv (receiving 40 64 (counting 5) 32) ∧
    (receiving 40 64 (counting 5) 0).c.state = .receivingData ∧
    (sinceLastByte 100#32 [] (receiving 40 64 (counting 5) 0)).toNat ≤
      (receiving 40 64 (counting 5) 0).c.timeoutPeriod.toNat ∧
    ¬ frameFull [] (receiving 40 64 (counting 5) 0) ∧
    ¬ frameFull (counting 26) (receiving 40 64 (counting 5) 32) := by
  unfold frameFull
  refine ⟨?_, inv_receiving, ?_, ?_, ?_, ?_⟩
  · constructor <;> decide
  all_goals decide

theorem witness_PollEmitsAtMostOneEvent :
    holds (exec (.cUpdate 20#32 [] .ok) State.reset) (fun t => t.out == [.write 0 [0xA0#8]]) := by
  decide

theorem witness_ControllerMovesAsTheTableSays :
    holds (step (withInputs [.op (.cUpdate 20#32 [] .ok)] State.reset))
      (fun t => t.c.state != State.reset.c.state) := by decide

theorem witness_OnlyAValidPingResponseConnects :
    let s := { almostPing 7#8 with
      c := { (almostPing 7#8).c with connected := false }
      inputs := [.op (.cUpdate 9#32 [3#8] .ok)] }
    s.c.connected = false ∧ holds (step s) (fun t => t.c.connected) = true := by decide

/-- A full buffer with a checksum that is no checksum at all: the transfer fails. -/
def failing : State :=
  withInputs [.op (.cUpdate 9#32 [] .ok)] (expecting [] (receiving 1 32 (counting 32) 32))

theorem witness_CompleteEndsItsRequest :
    ∃ t, step failing = .next t ∧ Event.complete 1 none 0#16 0#17 ∈ t.out := by
  have hne : ∀ l, Config.cksum .w4 l ≠ [] := fun l h => by
    have := congrArg List.length h
    simp [CksumWidth.bytes] at this
  let q := pullPhase 9#32 [] { failing with inputs := [] }
  refine ⟨raise .checksum q, ?_, by decide⟩
  have hs : step failing =
      .next (completeTransfer (q.bytesFrom .rxbuf 0 1) (q.bytesFrom .rxbuf 0 32) q) := rfl
  rw [hs, completeTransfer, if_neg]
  exact hne _

theorem witness_AgentsShareNoRegister :
    holds (exec .cNew State.reset) (fun _ => true) ∧ agentOf .cNew ≠ .peripheral ∧
    holds (exec (.pUpdate []) State.reset) (fun _ => true) ∧
    agentOf (.pUpdate []) ≠ .controller := by decide

theorem witness_TimeoutPeriodHasTwoWriters :
    holds (step (withInputs [.op (.cSetTimeoutPeriod 5#32)] State.reset))
      (fun t => t.c.timeoutPeriod != State.reset.c.timeoutPeriod) ∧
    holds (step (withInputs [.op .cNew] busy))
      (fun t => t.c.timeoutPeriod != busy.c.timeoutPeriod) := by decide

theorem witness_PaddedSizeIsTheLeastMultiple : 1#16 ≠ 0#16 ∧ 65535#16 ≠ 0#16 := by decide

theorem witness_IdentityIsSetByConstruction :
    holds (step (withInputs [.op (.pNew 7#32 3#16)] State.reset))
      (fun t => t.p.peripheralType != State.reset.p.peripheralType) := by decide

theorem witness_RequestEventBeginsATransfer :
    identified.p.state = .idle ∧ (0 : Nat) ≤ 65535 ∧ 0 ≤ ([] : List Byte).length ∧
    (3 : Nat) ≤ 65535 ∧ 3 ≤ (counting 5).length := by decide

theorem witness_RequestEventIsIgnoredWhileSending :
    (sending (counting 40) 32).p.state = .sendingData := by decide

theorem witness_ProviderOutsideItsDomainIsRefused :
    identified.p.state = .idle ∧ 65535 < 65536 ∧ (counting 5).length < 6 := by decide

theorem witness_IdlePeripheralAnswersALonePing : identified.p.state = .idle ∧
    pulledByPeripheral identified [0xA0#8] = [0xA0#8] ∧
    pulledByPeripheral identified [0xA0#8, 0xA0#8] ≠ [0xA0#8] := by decide

/-- A full chunk left; a tail left; nothing left. -/
theorem witness_SendingPeripheralSendsOneChunk :
    (sending (counting 40) 0).p.state = .sendingData ∧
    32 ≤ (sending (counting 32) 0).p.outLen.toNat -
      (sending (counting 32) 0).p.sendCursor.toNat ∧
    (sending (counting 40) 0).bytesFrom .outbuf 32 8 = (counting 40).drop 32 ∧
    (sending (counting 32) 32).unsent = 0 := by decide

theorem witness_PeripheralStreamsExactlyItsPayload :
    identified.p.state = .idle ∧ identified.bus.pRx = [] ∧ (counting 40).length ≤ 65535 := by
  decide

theorem witness_PollsDeliverTheTransfer :
    CtrlInv (receiving 1 32 [] 0) ∧ (receiving 1 32 [] 0).c.state = .receivingData ∧
    (receiving 1 32 [] 0).c.dataLoc = 0#17 ∧ (receiving 1 32 [] 0).bus.cRx = [] ∧
    (receiving 1 32 [] 0).c.pendingReceiver = some 1 ∧
    (∀ q ∈ [(5#32, counting 1), (9#32, counting 31)], q.2 ≠ []) ∧
    ([(5#32, counting 1), (9#32, counting 31)].map Prod.snd).flatten.length =
      (receiving 1 32 [] 0).c.capacity.toNat := by
  refine ⟨?_, ?_, ?_, ?_, ?_, ?_, ?_⟩
  · constructor <;> decide
  all_goals decide

theorem witness_EarlierArrivalsArePulled : busy.bus.cRx = [] := by decide

theorem inv_identified : CtrlInv identified := by constructor <;> decide

theorem witness_DiscoveryConnectsToThePeripheral :
    CtrlInv identified ∧ identified.c.state = .idle ∧ identified.p.state = .idle ∧
    identified.c.pendingReceiver = none ∧ identified.bus.c2pWire = [] ∧
    identified.bus.p2cWire = [] ∧ identified.bus.cRx = [] ∧ identified.bus.pRx = [] ∧
    identified.p.peripheralType ≠ 0#32 ∧
    10 < (elapsed 20#32 identified.c.lastBytesReceivedMs).toNat ∧
    20 ≤ (elapsed 20#32 identified.c.lastPingMs).toNat := by
  refine ⟨inv_identified, ?_⟩
  decide

/-- A transport with something in every place. -/
def fullBus : Bus :=
  { c2pWire := [1#8], p2cWire := [2#8, 3#8], cRx := [4#8], pRx := [5#8], credit := 1
    reqEvents := 1, onRequestRegistered := true }

theorem witness_DeliveryMovesTheHeadByte :
    fullBus.c2pWire = 1#8 :: [] ∧ fullBus.p2cWire = 2#8 :: [3#8] ∧
    Bus.reset.c2pWire = [] ∧ Bus.reset.p2cWire = [] := by decide

theorem witness_DeliveriesKeepTheOrder :
    2 ≤ (withBus fullBus State.reset).bus.p2cWire.length := by decide

theorem witness_RequestEventFiresOnce :
    0 < fullBus.reqEvents ∧ fullBus.onRequestRegistered = true ∧
    (withBus fullBus (sending (counting 40) 0)).p.state = .sendingData ∧
    Bus.reset.reqEvents = 0 ∧
    ({ fullBus with onRequestRegistered := false } : Bus).onRequestRegistered = false := by decide

theorem witness_FillNeedsCreditAndSilence :
    let b := { Bus.reset with credit := 1 }
    (0 < b.credit ∧ b.p2cWire = [] ∧ b.reqEvents = 0 ∧ identified.p.state = .idle) ∧
    Bus.reset.credit = 0 ∧ fullBus.p2cWire ≠ [] ∧ 0 < fullBus.reqEvents ∧
    (sending (counting 40) 0).p.state = .sendingData := by decide

end Sys2Proof.Tests
end

/-! Proof of O16. Only three reads of the block can leave their space, those of a complete frame by
the arms of the poll: each reads from offset 0, so the invariants have to bound its length by
`C.capacity`. The reads of the peripheral fit in every state whatsoever. -/

namespace Sys2Proof.Machine

/-! ### Safe outcomes -/

theorem safe_next (t : State) : Safe (.next t) := fun _ h => nomatch h

theorem safe_refused (r : Refusal) : Safe (.refused r) := fun _ h => nomatch h

theorem safe_ite {c : Prop} [Decidable c] {x y : Host.Outcome State Fault Refusal}
    (hx : c → Safe x) (hy : ¬ c → Safe y) : Safe (if c then x else y) := by
  split
  case isTrue hc => exact hx hc
  case isFalse hc => exact hy hc

/-- A read inside its space is safe if what follows it is. -/
theorem safe_withBytes_memRead {space : BufSpace} {a n : Nat} {s : State}
    {k : List Byte → Host.Outcome State Fault Refusal} (hfit : a + n ≤ s.spaceSize space)
    (hk : ∀ bytes, Safe (k bytes)) : Safe (withBytes (memRead space a n s) k) := by
  rw [memRead_inside s space a n hfit, withBytes_ok]
  exact hk _

/-! ### The controller's reads -/

/-- How many bytes of a complete frame the arm of the state switch decodes: the packet, or the D
payload bytes (41_controller_update.md R141, R144; 42_stream_receiver.md R175). -/
def frameReadSize (s : State) : Nat :=
  match s.c.state with
  | .idle => 0
  | .awaitingPingResponse => Config.pingResponseSize
  | .awaitingStartOfStream => s.sosSize
  | .receivingData => s.c.expectedDataSize.toNat

/-- R32 (c), (d) and (e): the capacity covers what the arm reads. -/
theorem CtrlInv.frameReadSize_le {s : State} (h : CtrlInv s) :
    frameReadSize s ≤ s.c.capacity.toNat := by
  unfold frameReadSize
  split
  case h_1 => exact Nat.zero_le _
  case h_2 hst => exact (h.ping_capacity hst).ge
  case h_3 hst => exact (h.header_capacity hst).1.ge
  case h_4 hst =>
    obtain ⟨hcap, -⟩ := h.receiving hst
    rw [hcap, pad32_toNat]
    omega

@[simp] theorem frameReadSize_pullPhase (now : Word32) (rx : List Byte) (s : State) :
    frameReadSize (pullPhase now rx s) = frameReadSize s := by
  simp [frameReadSize]

theorem pingResponseArm_safe (now : Word32) {s : State}
    (h : Config.pingResponseSize ≤ s.c.capacity.toNat) : Safe (pingResponseArm now s) :=
  safe_ite (fun _ => safe_withBytes_memRead (by simpa using h) fun _ => safe_next _)
    fun _ => safe_next _

theorem startOfStreamArm_safe {s : State} (h : s.sosSize ≤ s.c.capacity.toNat) :
    Safe (startOfStreamArm s) :=
  safe_ite (fun _ => safe_withBytes_memRead (by simpa using h) fun _ => safe_next _)
    fun _ => safe_next _

theorem receivingArm_safe {s : State} (h : s.c.expectedDataSize.toNat ≤ s.c.capacity.toNat) :
    Safe (receivingArm s) := by
  refine safe_ite (fun _ => ?complete) fun _ => safe_ite (fun _ => safe_next _) fun _ => safe_next _
  case complete =>
    refine safe_withBytes_memRead (by simpa using h) fun _ => ?_
    exact safe_withBytes_memRead (by simp) fun _ => safe_next _

theorem stateSwitch_safe (now : Word32) (st : Status) {s : State}
    (h : frameReadSize s ≤ s.c.capacity.toNat) : Safe (stateSwitch now st s) := by
  unfold frameReadSize at h
  unfold stateSwitch
  cases hst : s.c.state <;> rw [hst] at h
  case idle => exact safe_next _
  case awaitingPingResponse => exact pingResponseArm_safe now h
  case awaitingStartOfStream => exact startOfStreamArm_safe h
  case receivingData => exact receivingArm_safe h

theorem execCUpdate_safe (now : Word32) (rx : List Byte) (st : Status) {s : State}
    (h : frameReadSize s ≤ s.c.capacity.toNat) : Safe (execCUpdate now rx st s) := by
  have hswitch : Safe (stateSwitch now st (pullPhase now rx s)) :=
    stateSwitch_safe now st (by simpa using h)
  exact safe_ite (fun _ => safe_next _) fun _ => safe_ite (fun _ => safe_next _) fun _ => hswitch

theorem execCRequestData_safe (cb : Handle) (s : State) : Safe (execCRequestData cb s) := by
  unfold execCRequestData
  split
  · exact safe_next _
  · exact safe_refused _

/-! ### The peripheral's reads -/

/-- No state whatsoever makes the chunked send read past the payload: it reads only what is
unsent. -/
theorem chunkedSend_safe (s : State) : Safe (chunkedSend s) := by
  unfold chunkedSend
  split
  case h_1 => exact safe_next _
  case h_2 =>
    have hunsent : s.unsent = s.p.outLen.toNat - s.p.sendCursor.toNat := rfl
    refine safe_ite (fun hchunk => ?chunk) fun _ => ?rest
    case chunk =>
      have hpos : 0 < s.unsent := Nat.lt_of_lt_of_le (by decide) hchunk
      exact safe_withBytes_memRead (by rw [spaceSize_outbuf]; omega) fun _ => safe_next _
    case rest =>
      refine safe_ite (fun htail => ?_) fun _ => safe_next _
      exact safe_withBytes_memRead (by rw [spaceSize_outbuf]; omega) fun _ => safe_next _

theorem onRequest_safe (bytes : List Byte) (n : Nat) (s : State) : Safe (onRequest bytes n s) := by
  unfold onRequest
  split
  case h_1 => exact safe_next _
  case h_2 =>
    refine safe_ite (fun hrange => ?_) fun _ => safe_refused _
    obtain ⟨hn, -⟩ := (providerInRange_iff bytes n).1 hrange
    rw [beginTransfer_eq s _ ((List.length_take_le n bytes).trans hn)]
    exact safe_next _

/-! ### Instructions, bus steps and arrivals -/

theorem exec_safe (i : Instr) {s : State} (h : frameReadSize s ≤ s.c.capacity.toNat) :
    Safe (exec i s) := by
  cases i with
  | cUpdate now rx st => exact execCUpdate_safe now rx st h
  | pUpdate rx => exact chunkedSend_safe _
  | pOnRequest bytes n => exact onRequest_safe bytes n _
  | cRequestData cb => exact execCRequestData_safe cb s
  | sos4 _ _ | sos16 _ _ | decodePing _ | decodePingResponse _ | encodeStartOfStream _ _
  | decodeStartOfStream _ => exact safe_ite (fun _ => safe_next _) fun _ => safe_refused _
  | ping | pingResp _ _ | data _ | encodePing | encodePingResponse _ _ | cNew
  | cSetTimeoutPeriod _ | cConnected | cGetState | cDeviceType | cDeviceVersion | pNew _ _ =>
    exact safe_next _

theorem execBus_safe (b : BusStep) (s : State) : Safe (execBus b s) := by
  cases b with
  | deliverC2P =>
    show Safe (busDeliverC2P s)
    unfold busDeliverC2P
    split
    · exact safe_refused _
    · exact safe_next _
  | deliverP2C =>
    show Safe (busDeliverP2C s)
    unfold busDeliverP2C
    split
    · exact safe_refused _
    · exact safe_next _
  | fireRequest bytes n =>
    exact safe_ite (fun _ => onRequest_safe bytes n _) fun _ => safe_refused _
  | fill b => exact safe_ite (fun _ => safe_next _) fun _ => safe_refused _

theorem rawBytesArrive_safe (f : Format) (bytes : List Byte) (s : State) :
    Safe (rawBytesArrive f bytes s) := by
  rw [rawBytesArrive_eq]
  exact safe_next _

/-! ### One step -/

/-- The fetch takes an item off the trace and touches no register. -/
theorem fetch_instr_c_cfg {s t : State} {i : Instr} (h : fetch s = .instr i t) :
    t.c = s.c ∧ t.cfg = s.cfg := by
  unfold fetch at h
  split at h
  case h_1 => cases h
  case h_2 =>
    split at h
    · cases h; exact ⟨rfl, rfl⟩
    · cases h
  case h_3 => cases h; exact ⟨rfl, rfl⟩
  case h_4 => cases h

theorem step_safe {s : State} (h : frameReadSize s ≤ s.c.capacity.toNat) : Safe (step s) := by
  unfold step
  split
  case h_1 => exact safe_next _
  case h_2 i t hfetch =>
    obtain ⟨hc, hcfg⟩ := fetch_instr_c_cfg hfetch
    have hsize : frameReadSize t = frameReadSize s := by
      simp only [frameReadSize, sosSize_eq, hc, hcfg]
    exact exec_safe i (by rw [hsize, hc]; exact h)
  case h_3 b t _ => exact execBus_safe b t
  case h_4 f bytes t _ => exact rawBytesArrive_safe f bytes t

/-- Settles O16: by R32 (c) to (e) the receive buffer covers what the poll's arm reads, and no
other read of a step can leave its space. -/
theorem invariantStatesNeverFault : Obligations.InvariantStatesNeverFault :=
  fun _ h => step_safe h.ctrl.frameReadSize_le

end Sys2Proof.Machine

/-! Proofs of O13, O14, O15, O18, O40, O43, O44 and O47. Each follows from one list of what a step
can do (`stepEnd_of_step`): an operation of the controller, an operation of the peripheral, a
request event that the bus fires, or something that writes no register of either agent. -/

namespace Sys2Proof.Machine

/-! ### Frames in a row -/

theorem PeripheralSide.trans {s t u : State} (hst : PeripheralSide s t)
    (htu : PeripheralSide t u) : PeripheralSide s u := by
  obtain ⟨hp, hfree, -, hcfg, hinputs⟩ := hst
  obtain ⟨hp', hfree', -, hcfg', hinputs'⟩ := htu
  exact .of (hp'.trans hp) (hfree'.trans hfree) (hcfg'.trans hcfg) (hinputs'.trans hinputs)

theorem ControllerSide.trans {s t u : State} (hst : ControllerSide s t)
    (htu : ControllerSide t u) : ControllerSide s u := by
  obtain ⟨hc, hfree, -, hcfg, hinputs⟩ := hst
  obtain ⟨hc', hfree', -, hcfg', hinputs'⟩ := htu
  exact .of (hc'.trans hc) (hfree'.trans hfree) (hcfg'.trans hcfg) (hinputs'.trans hinputs)

/-- At most the queues of the transport and the outputs are new: the registers and the buffers of
both agents, the parameters, the trace and the registered handler stay. -/
structure AgentsKept (s t : State) : Prop where
  controller : ControllerSide s t
  peripheral : PeripheralSide s t
  handler : t.bus.onRequestRegistered = s.bus.onRequestRegistered

theorem AgentsKept.of {s t : State} (hc : t.c = s.c) (hp : t.p = s.p) (hfree : t.free = s.free)
    (hcfg : t.cfg = s.cfg) (hinputs : t.inputs = s.inputs)
    (hreg : t.bus.onRequestRegistered = s.bus.onRequestRegistered) : AgentsKept s t :=
  ⟨.of hc (by rw [hfree]) hcfg hinputs, .of hp (by rw [hfree]) hcfg hinputs, hreg⟩

theorem agentsKept_returning (s : State) (r : Ret) : AgentsKept s (s.start.returning r) :=
  .of rfl rfl rfl rfl rfl rfl

theorem agentsKept_arriveAtReceiver (f : Format) (bytes : List Byte) (s : State) (r : Ret) :
    AgentsKept s ((arriveAtReceiver f bytes s.start).returning r) := by
  refine .of (by simp) (by simp) (by simp) (by simp) (by simp) ?handler
  cases f <;> rfl

theorem agentsKept_of_rawBytesArrive {f : Format} {bytes : List Byte} {s t : State}
    (h : rawBytesArrive f bytes s = .next t) : AgentsKept s t := by
  rw [rawBytesArrive_eq] at h
  cases h
  exact agentsKept_arriveAtReceiver f bytes s _

theorem agentsKept_of_codecResult {sized : Bool} {r : Ret} {s t : State}
    (h : codecResult sized r s = .next t) : AgentsKept s t := by
  unfold codecResult at h
  split at h <;> cases h
  exact agentsKept_returning s r

/-- An instruction that is no operation of an agent writes no register (R103). -/
theorem agentsKept_of_exec {i : Instr} {s t : State} (hc : agentOf i ≠ .controller)
    (hp : agentOf i ≠ .peripheral) (h : exec i s = .next t) : AgentsKept s t := by
  cases i with
  | ping | pingResp _ _ | data _ =>
    cases h
    exact agentsKept_arriveAtReceiver _ _ s _
  | sos4 d ck =>
    have h : execSos4 d ck s = .next t := h
    unfold execSos4 at h
    split at h <;> cases h
    exact agentsKept_arriveAtReceiver _ _ s _
  | sos16 d ck =>
    have h : execSos16 d ck s = .next t := h
    unfold execSos16 at h
    split at h <;> cases h
    exact agentsKept_arriveAtReceiver _ _ s _
  | encodePing | encodePingResponse _ _ =>
    cases h
    exact agentsKept_returning s _
  | decodePing _ | decodePingResponse _ | encodeStartOfStream _ _ | decodeStartOfStream _ =>
    exact agentsKept_of_codecResult h
  | cUpdate _ _ _ | cNew | cRequestData _ | cSetTimeoutPeriod _ | cConnected | cGetState
  | cDeviceType | cDeviceVersion => exact absurd rfl hc
  | pNew _ _ | pUpdate _ | pOnRequest _ _ => exact absurd rfl hp

/-! ### What the phases of a controller poll after its pull can do -/

/-- The ends of a controller poll, from the state `s` after its pull (41_controller_update.md R133
to R146, 42_stream_receiver.md R170 to R178). -/
inductive PollEnd (now : Word32) (st : Status) (s : State) : State → Prop
  | unchanged : PollEnd now st s s
  | silence : PollEnd now st s (raise .silence s)
  | headerAsked (hpending : s.c.pendingReceiver ≠ none) : PollEnd now st s
      (setCtrlState .awaitingStartOfStream (resetBuffer s.sosSize (emitRequestFrom s.sosSize s)))
  | pingTimedOut : PollEnd now st s (raise .transport (emitWrite encodePing st s))
  | pinged : PollEnd now st s (setCtrlState .awaitingPingResponse
      (resetBuffer Config.pingResponseSize (emitWrite encodePing st s)))
  | malformed (hfull : s.c.dataLoc = s.c.capacity) : PollEnd now st s (raise .malformed s)
  | identified (buf : List Byte) (hstate : s.c.state = .awaitingPingResponse)
      (hfull : s.c.dataLoc = s.c.capacity) (hbuf : s.bytesFrom .rxbuf 0 7 = buf)
      (htag : byteAt buf 0 = Config.tagPingResponse) (htype : be32 buf 1 ≠ 0#32) :
      PollEnd now st s (setCtrlState .idle
        (setConnected true (recordIdentity now (be32 buf 1) (be16 buf 5) s)))
  | headerTaken (header : StartOfStreamRecord) (hstate : s.c.state = .awaitingStartOfStream)
      (hheader : decodeStartOfStream s.cfg.cksumWidth (s.bytesFrom .rxbuf 0 s.sosSize) = header)
      (hsize : header.dataSize ≠ 0#16) :
      PollEnd now st s (setCtrlState .receivingData (resetBuffer (pad32 header.dataSize).toNat
        (captureHeader header.dataSize header.streamChecksum s)))
  | completed (buffer : List Byte) : PollEnd now st s
      (endTransfer (emitComplete (some buffer) s.c.expectedDataSize s.c.capacity s))
  | mismatched : PollEnd now st s (raise .checksum s)
  | chunkAsked (hstate : s.c.state = .receivingData) (hdue : s.c.reqMark < s.c.capacity) :
      PollEnd now st s (advanceReqMark (emitRequestFrom Config.chunkSize s))

theorem pollEnd_idleArm (now : Word32) (st : Status) (s : State) :
    PollEnd now st s (idleArm now st s) := by
  unfold idleArm
  split
  case h_1 hpending => exact .headerAsked (by simp [hpending])
  case h_2 =>
    dsimp only
    split
    · split
      · exact .pingTimedOut
      · exact .pinged
    · exact .unchanged

/-- A complete PingResponse frame is accepted only with its tag: the sentinel of a wrong one has
type 0 (40_packet_codec.md R115). -/
theorem pollEnd_acceptPingResponse {now : Word32} {st : Status} {s : State}
    (hstate : s.c.state = .awaitingPingResponse) (hfull : s.c.dataLoc = s.c.capacity) :
    PollEnd now st s (acceptPingResponse now (decodePingResponse (s.bytesFrom .rxbuf 0 7)) s) := by
  unfold acceptPingResponse
  split
  case isTrue => exact .malformed hfull
  case isFalse htype =>
    by_cases htag : byteAt (s.bytesFrom .rxbuf 0 7) 0 = Config.tagPingResponse
    · rw [decodePingResponse, if_pos htag] at htype ⊢
      exact .identified _ hstate hfull rfl htag htype
    · rw [decodePingResponse, if_neg htag] at htype
      exact absurd rfl htype

theorem pollEnd_acceptStartOfStream {now : Word32} {st : Status} {s : State}
    (hstate : s.c.state = .awaitingStartOfStream) (hfull : s.c.dataLoc = s.c.capacity) :
    PollEnd now st s (acceptStartOfStream
      (decodeStartOfStream s.cfg.cksumWidth (s.bytesFrom .rxbuf 0 s.sosSize)) s) := by
  unfold acceptStartOfStream
  split
  case isTrue => exact .malformed hfull
  case isFalse hsize => exact .headerTaken _ hstate rfl hsize

theorem pollEnd_completeTransfer {now : Word32} {st : Status} (payload buffer : List Byte)
    (s : State) : PollEnd now st s (completeTransfer payload buffer s) := by
  unfold completeTransfer
  split
  · exact .completed buffer
  · exact .mismatched

theorem pollEnd_of_afterPull {now : Word32} {st : Status} {s t : State}
    (h : afterPull now st s = .next t) : PollEnd now st s t := by
  obtain rfl | ⟨-, rfl⟩ | ⟨-, rfl⟩ | ⟨hstate, hfull, rfl⟩ | ⟨hstate, hfull, rfl⟩ |
    ⟨-, -, rfl⟩ | ⟨hstate, -, hdue, rfl⟩ := afterPull_next h
  · exact .unchanged
  · exact .silence
  · exact pollEnd_idleArm now st s
  · exact pollEnd_acceptPingResponse hstate hfull
  · exact pollEnd_acceptStartOfStream hstate hfull
  · exact pollEnd_completeTransfer _ _ s
  · simp only [chunkRequestDue, Bool.and_eq_true, decide_eq_true_eq] at hdue
    exact .chunkAsked hstate hdue.2

section
variable {now : Word32} {st : Status} {s t : State}

theorem PollEnd.peripheralSide (h : PollEnd now st s t) : PeripheralSide s t := by
  cases h <;> exact .of (by simp) (by simp) (by simp) (by simp)

theorem PollEnd.handler (h : PollEnd now st s t) :
    t.bus.onRequestRegistered = s.bus.onRequestRegistered := by
  have hwrite : (emitWrite encodePing st s).bus.onRequestRegistered =
      s.bus.onRequestRegistered := by
    rw [emitWrite_bus]
    split <;> rfl
  cases h <;> simp [hwrite]

theorem PollEnd.timeoutPeriod (h : PollEnd now st s t) :
    t.c.timeoutPeriod = s.c.timeoutPeriod := by
  cases h <;> simp [raise_transport, raise_malformed_c, raise_checksum_c, raise_silence_c]

end

/-! ### Operations of the controller -/

/-- What an operation of the controller does: a poll, one of the three other writers of its
registers, or a read. -/
inductive ControllerEnd (s : State) : Instr → State → Prop
  | poll (now : Word32) (rx : List Byte) (st : Status) (t : State)
      (hend : PollEnd now st (pullPhase now rx s) t) : ControllerEnd s (.cUpdate now rx st) t
  | constructed : ControllerEnd s .cNew (resetController s.start)
  | requested (cb : Handle) :
      ControllerEnd s (.cRequestData cb) (setPending (some cb) s.start)
  | timeoutSet (v : Word32) : ControllerEnd s (.cSetTimeoutPeriod v) (setTimeoutPeriod v s.start)
  | registerRead (i : Instr) (r : Ret) : ControllerEnd s i (s.start.returning r)

theorem controllerEnd_of_exec {i : Instr} {s t : State} (hi : agentOf i = .controller)
    (h : exec i s = .next t) : ControllerEnd s i t := by
  cases i with
  | cUpdate now rx st => exact .poll now rx st t (pollEnd_of_afterPull h)
  | cNew => cases h; exact .constructed
  | cRequestData cb =>
    have h : execCRequestData cb s = .next t := h
    unfold execCRequestData at h
    split at h <;> cases h
    exact .requested cb
  | cSetTimeoutPeriod v => cases h; exact .timeoutSet v
  | cConnected | cGetState | cDeviceType | cDeviceVersion => cases h; exact .registerRead _ _
  | _ => cases hi

theorem pullPhase_peripheralSide (now : Word32) (rx : List Byte) (s : State) :
    PeripheralSide s (pullPhase now rx s) :=
  .of (by simp) (by simp) (by simp) (by simp)

theorem ControllerEnd.peripheralSide {i : Instr} {s t : State} (h : ControllerEnd s i t) :
    PeripheralSide s t := by
  cases h with
  | poll now rx st t hend => exact (pullPhase_peripheralSide now rx s).trans hend.peripheralSide
  | constructed | requested | timeoutSet | registerRead => exact .of rfl rfl rfl rfl

theorem ControllerEnd.handler {i : Instr} {s t : State} (h : ControllerEnd s i t) :
    t.bus.onRequestRegistered = s.bus.onRequestRegistered := by
  cases h with
  | poll now rx st t hend =>
    rw [hend.handler, pullPhase_bus]
    rfl
  | constructed | requested | timeoutSet | registerRead => rfl

/-! ### Operations of the peripheral -/

/-- What a poll of the peripheral or a request event does, from a state `s` with the registers and
buffers from before it (43_peripheral.md R191, R192, R198 to R200). -/
inductive SendEnd (s : State) : State → Prop
  | unchanged : SendEnd s s
  | loaded (payload header : List Byte) (hlen : payload.length ≤ Config.maxDataSize) : SendEnd s
      (setPeriphState .sendingData (emitSend header (loadOutbuf payload s)))
  | chunkSent (chunk : List Byte) (hstate : s.p.state = .sendingData)
      (hunsent : Config.chunkSize ≤ s.unsent) : SendEnd s (advanceSendCursor (emitSend chunk s))
  | tailSent (tail : List Byte) : SendEnd s (releaseOutbuf (emitSend tail s))
  | released : SendEnd s (releaseOutbuf s)

theorem sendEnd_of_chunkedSend {s t : State} (h : chunkedSend s = .next t) : SendEnd s t := by
  obtain ⟨-, rfl⟩ | ⟨hstate, hunsent, rfl⟩ | ⟨-, -, -, rfl⟩ | ⟨-, -, rfl⟩ := chunkedSend_next h
  · exact .unchanged
  · exact .chunkSent _ hstate hunsent
  · exact .tailSent _
  · exact .released

theorem sendEnd_of_onRequest {bytes : List Byte} {n : Nat} {s t : State}
    (h : onRequest bytes n s = .next t) : SendEnd s t := by
  obtain ⟨-, rfl⟩ | ⟨-, hn, -, rfl⟩ := onRequest_next h
  · exact .unchanged
  · exact .loaded _ _ ((List.length_take_le n bytes).trans hn)

section
variable {s t : State}

theorem SendEnd.controllerSide (h : SendEnd s t) : ControllerSide s t := by
  cases h <;> exact .of rfl rfl rfl rfl

theorem SendEnd.handler (h : SendEnd s t) :
    t.bus.onRequestRegistered = s.bus.onRequestRegistered := by
  cases h <;> rfl

theorem SendEnd.identity (h : SendEnd s t) :
    t.p.peripheralType = s.p.peripheralType ∧ t.p.peripheralVersion = s.p.peripheralVersion := by
  cases h <;> exact ⟨rfl, rfl⟩

end

/-- What an operation of the peripheral does: its construction, or the two that move a payload, from
a state that keeps all but the queues. -/
inductive PeripheralEnd (s : State) : Instr → State → Prop
  | constructed (ty : Word32) (v : Word16) :
      PeripheralEnd s (.pNew ty v) (registerHandler (resetPeripheral ty v s.start))
  | sent (i : Instr) (u t : State) (hkept : AgentsKept s u) (hend : SendEnd u t) :
      PeripheralEnd s i t

/-- The pull and the ping detection of a peripheral poll. -/
theorem agentsKept_detectPing (rx pulled : List Byte) (s : State) :
    AgentsKept s (detectPing pulled (drainPeripheral (arriveAtPeripheral rx s.start))) := by
  refine .of (by simp) (by simp) (by simp) (by simp) (by simp) ?handler
  rw [detectPing_eq]
  split <;> rfl

theorem peripheralEnd_of_exec {i : Instr} {s t : State} (hi : agentOf i = .peripheral)
    (h : exec i s = .next t) : PeripheralEnd s i t := by
  cases i with
  | pNew ty v => cases h; exact .constructed ty v
  | pUpdate rx => exact .sent _ _ t (agentsKept_detectPing rx _ s) (sendEnd_of_chunkedSend h)
  | pOnRequest bytes n =>
    exact .sent _ s.start t (.of rfl rfl rfl rfl rfl rfl) (sendEnd_of_onRequest h)
  | _ => cases hi

theorem PeripheralEnd.controllerSide {i : Instr} {s t : State} (h : PeripheralEnd s i t) :
    ControllerSide s t := by
  cases h with
  | constructed => exact .of rfl rfl rfl rfl
  | sent i u t hkept hend => exact hkept.controller.trans hend.controllerSide

theorem PeripheralEnd.handler {i : Instr} {s t : State} (h : PeripheralEnd s i t)
    (hreg : s.bus.onRequestRegistered = true) : t.bus.onRequestRegistered = true := by
  cases h with
  | constructed => rfl
  | sent i u t hkept hend => rw [hend.handler, hkept.handler, hreg]

/-! ### All instructions, and the steps of the bus -/

theorem exec_controllerSide {i : Instr} {s t : State} (hi : agentOf i ≠ .controller)
    (h : exec i s = .next t) : ControllerSide s t := by
  by_cases hp : agentOf i = .peripheral
  · exact (peripheralEnd_of_exec hp h).controllerSide
  · exact (agentsKept_of_exec hi hp h).controller

theorem exec_peripheralSide {i : Instr} {s t : State} (hi : agentOf i ≠ .peripheral)
    (h : exec i s = .next t) : PeripheralSide s t := by
  by_cases hc : agentOf i = .controller
  · exact (controllerEnd_of_exec hc h).peripheralSide
  · exact (agentsKept_of_exec hc hi h).peripheral

/-- Settles O43, by the frames of the two agents' operations. -/
theorem agentsShareNoRegister : Obligations.AgentsShareNoRegister :=
  fun _ _ _ h => ⟨fun hi => exec_controllerSide hi h, fun hi => exec_peripheralSide hi h⟩

/-- A bus step either fires the request event or moves bytes between queues. -/
theorem busEnd_of_execBus {b : BusStep} {s t : State} (h : execBus b s = .next t) :
    AgentsKept s t ∨ ∃ u, AgentsKept s u ∧ SendEnd u t := by
  cases b with
  | deliverC2P =>
    have h : busDeliverC2P s = .next t := h
    unfold busDeliverC2P at h
    split at h <;> cases h
    exact .inl (.of rfl rfl rfl rfl rfl rfl)
  | deliverP2C =>
    have h : busDeliverP2C s = .next t := h
    unfold busDeliverP2C at h
    split at h <;> cases h
    exact .inl (.of rfl rfl rfl rfl rfl rfl)
  | fireRequest bytes n =>
    have h : busFireRequest bytes n s = .next t := h
    unfold busFireRequest at h
    split at h
    · exact .inr ⟨takeRequestEvent s.start, .of rfl rfl rfl rfl rfl rfl, sendEnd_of_onRequest h⟩
    · cases h
  | fill b =>
    have h : busFill b s = .next t := h
    unfold busFill at h
    split at h <;> cases h
    exact .inl (.of rfl rfl rfl rfl rfl rfl)

/-! ### One step -/

/-- The state once the fetch has taken the next item off the trace. -/
def State.fetched (s : State) : State := { s with inputs := s.inputs.tail }

@[simp] theorem fetched_c (s : State) : s.fetched.c = s.c := rfl

theorem step_nil {s : State} (h : s.inputs = []) : step s = .next s.start := by
  simp only [step, fetch, h]

theorem step_op {s : State} {i : Instr} {rest : List Stimulus} (h : s.inputs = .op i :: rest) :
    step s = exec i s.fetched := by
  simp only [step, fetch, h, State.fetched, List.tail_cons]

theorem step_bus {s : State} {b : BusStep} {rest : List Stimulus} (h : s.inputs = .bus b :: rest) :
    step s = execBus b s.fetched := by
  simp only [step, fetch, h, State.fetched, List.tail_cons]

theorem step_wire {s : State} {f : Format} {bytes : List Byte} {rest : List Stimulus}
    (h : s.inputs = .wire f bytes :: rest) :
    (∃ i, decode f bytes = .ok i ∧ step s = exec i s.fetched) ∨
      step s = rawBytesArrive f bytes s.fetched := by
  cases hd : decode f bytes with
  | ok i =>
    refine .inl ⟨i, rfl, ?_⟩
    simp only [step, fetch, h, hd, State.fetched, List.tail_cons]
  | error e =>
    refine .inr ?_
    simp only [step, fetch, h, hd, State.fetched, List.tail_cons]

/-- What the decoder reads from the wire is a packet and no operation (30_encoding.md R102). -/
theorem agentOf_of_decode {f : Format} {bytes : List Byte} {i : Instr}
    (h : decode f bytes = .ok i) : agentOf i = .transport := by
  have hpacket : decodePacket f bytes = some i := by
    unfold decode at h
    split at h
    · split at h <;> cases h
      assumption
    · cases h
  cases f with
  | data => cases hpacket; rfl
  | ping | pingResp | sos4 | sos16 =>
    simp only [decodePacket, Option.ite_none_right_eq_some, Option.some.injEq] at hpacket
    obtain ⟨-, rfl⟩ := hpacket
    rfl

/-- What a step does: an operation of one of the agents, a fired request event, or nothing to the
registers and the buffers of either. -/
inductive StepEnd (s t : State) : Prop
  | controller (i : Instr) (rest : List Stimulus) (hinputs : s.inputs = .op i :: rest)
      (hend : ControllerEnd s.fetched i t)
  | peripheral (i : Instr) (rest : List Stimulus) (hinputs : s.inputs = .op i :: rest)
      (hend : PeripheralEnd s.fetched i t)
  | fired (u : State) (hkept : AgentsKept s.fetched u) (hend : SendEnd u t)
  | quiet (hkept : AgentsKept s.fetched t)

theorem stepEnd_of_step {s t : State} (h : step s = .next t) : StepEnd s t := by
  cases hinputs : s.inputs with
  | nil =>
    rw [step_nil hinputs] at h
    cases h
    exact .quiet (.of rfl rfl rfl rfl (by simp [State.fetched, hinputs]) rfl)
  | cons item rest =>
    cases item with
    | wire f bytes =>
      obtain ⟨i, hdecode, hstep⟩ | hstep := step_wire hinputs <;> rw [hstep] at h
      · have hagent := agentOf_of_decode hdecode
        exact .quiet (agentsKept_of_exec (by simp [hagent]) (by simp [hagent]) h)
      · exact .quiet (agentsKept_of_rawBytesArrive h)
    | op i =>
      rw [step_op hinputs] at h
      by_cases hc : agentOf i = .controller
      · exact .controller i rest hinputs (controllerEnd_of_exec hc h)
      by_cases hp : agentOf i = .peripheral
      · exact .peripheral i rest hinputs (peripheralEnd_of_exec hp h)
      · exact .quiet (agentsKept_of_exec hc hp h)
    | bus b =>
      rw [step_bus hinputs] at h
      obtain hkept | ⟨u, hkept, hend⟩ := busEnd_of_execBus h
      · exact .quiet hkept
      · exact .fired u hkept hend

/-- Outside the controller's operations a step keeps the controller's side. -/
theorem StepEnd.controllerSide_or {s t : State} (h : StepEnd s t) :
    ControllerSide s.fetched t ∨
      ∃ i rest, s.inputs = .op i :: rest ∧ ControllerEnd s.fetched i t := by
  cases h with
  | controller i rest hinputs hend => exact .inr ⟨i, rest, hinputs, hend⟩
  | peripheral i rest hinputs hend => exact .inl hend.controllerSide
  | fired u hkept hend => exact .inl (hkept.controller.trans hend.controllerSide)
  | quiet hkept => exact .inl hkept.controller

/-! ### The static parameters -/

/-- Settles O18: every operation of either agent keeps the parameters. -/
theorem stepKeepsStaticParameters : Obligations.StepKeepsStaticParameters := by
  intro s t h
  obtain ⟨-, -, -, hcfg, -⟩ | ⟨i, rest, -, hend⟩ := (stepEnd_of_step h).controllerSide_or
  · exact hcfg
  · obtain ⟨-, -, -, hcfg, -⟩ := hend.peripheralSide
    exact hcfg

/-! ### Registers with few writers -/

/-- Settles O44: a poll, a request and a read keep the timeout period. -/
theorem timeoutPeriodHasTwoWriters : Obligations.TimeoutPeriodHasTwoWriters := by
  intro s t h hne
  obtain ⟨hc, -⟩ | ⟨i, rest, hinputs, hend⟩ := (stepEnd_of_step h).controllerSide_or
  · exact absurd (by rw [hc, fetched_c]) hne
  cases hend with
  | poll now rx st t hend => exact absurd (by rw [hend.timeoutPeriod]; simp) hne
  | constructed => exact ⟨rest, .inr hinputs⟩
  | requested | registerRead => exact absurd rfl hne
  | timeoutSet v => exact ⟨rest, .inl hinputs⟩

/-- A poll connects only by a PingResponse with its tag and a non-zero type, which its end still
shows in the receive buffer. -/
theorem PollEnd.connected {now : Word32} {st : Status} {s t : State} (h : PollEnd now st s t)
    (hs : s.c.connected = false) (ht : t.c.connected = true) :
    s.c.state = .awaitingPingResponse ∧ t.c.state = .idle ∧
      byteAt (t.bytesFrom .rxbuf 0 7) 0 = Config.tagPingResponse ∧
      be32 (t.bytesFrom .rxbuf 0 7) 1 ≠ 0#32 ∧
      t.c.deviceType = be32 (t.bytesFrom .rxbuf 0 7) 1 ∧
      t.c.deviceVersion = be16 (t.bytesFrom .rxbuf 0 7) 5 := by
  cases h with
  | identified buf hstate hfull hbuf htag htype =>
    have hsame : State.bytesFrom (setCtrlState .idle (setConnected true
        (recordIdentity now (be32 buf 1) (be16 buf 5) s))) .rxbuf 0 7 = buf := by
      rw [← hbuf]
      exact bytesFrom_congr _ _ _ fun k _ _ => SameBytes.rxbuf_of rfl rfl k
    rw [hsame]
    exact ⟨hstate, rfl, htag, htype, rfl, rfl⟩
  | unchanged | silence | headerAsked | pingTimedOut | pinged | malformed | headerTaken | completed
  | mismatched | chunkAsked =>
    simp [raise_transport, raise_malformed_c, raise_checksum_c, raise_silence_c, hs] at ht

/-- Settles O40: of the operations only a poll sets `C.connected`. -/
theorem onlyAValidPingResponseConnects : Obligations.OnlyAValidPingResponseConnects := by
  intro s t h hs ht
  obtain ⟨hc, -⟩ | ⟨i, rest, -, hend⟩ := (stepEnd_of_step h).controllerSide_or
  · rw [hc, fetched_c, hs] at ht
    cases ht
  cases hend with
  | poll now rx st t hend =>
    have hidle : (pullPhase now rx s.fetched).c.connected = false := by simpa using hs
    simpa [Config.tagPingResponse] using hend.connected hidle ht
  | constructed => cases ht
  | requested | timeoutSet | registerRead => exact absurd (hs.symm.trans ht) (by decide)

/-- Settles O47: outside `P.NEW` a payload is all the peripheral's operations write. -/
theorem identityIsSetByConstruction : Obligations.IdentityIsSetByConstruction := by
  refine ⟨fun s ty v => ⟨_, rfl, rfl, rfl⟩, fun s t h hne => ?written⟩
  have hcontra (hsame : t.p.peripheralType = s.p.peripheralType ∧
      t.p.peripheralVersion = s.p.peripheralVersion) : False := by
    obtain ⟨hty, hv⟩ := hsame
    exact hne.elim (· hty) (· hv)
  have hsent {u : State} (hkept : AgentsKept s.fetched u) (hend : SendEnd u t) : False := by
    obtain ⟨hp, -⟩ := hkept.peripheral
    have hidentity := hend.identity
    rw [hp] at hidentity
    exact hcontra hidentity
  cases stepEnd_of_step h with
  | controller i rest hinputs hend =>
    obtain ⟨hp, -⟩ := hend.peripheralSide
    exact (hcontra (by rw [hp]; exact ⟨rfl, rfl⟩)).elim
  | peripheral i rest hinputs hend =>
    cases hend with
    | constructed ty v => exact ⟨rest, hinputs⟩
    | sent i u t hkept hend => exact (hsent hkept hend).elim
  | fired u hkept hend => exact (hsent hkept hend).elim
  | quiet hkept =>
    obtain ⟨hp, -⟩ := hkept.peripheral
    exact (hcontra (by rw [hp]; exact ⟨rfl, rfl⟩)).elim

/-! ### The invariant of the controller -/

/-- The clauses of `CtrlInv` that hold in every state of the controller alike, also between the
register writes of one operation. -/
structure CtrlStored (s : State) : Prop where
  cursor_le : s.c.dataLoc ≤ s.c.capacity
  mark_aligned : s.c.reqMark.toNat % Config.chunkSize = 0
  capacity_allowed : capacityAllowed s.cfg.cksumWidth s.c.capacity.toNat = true
  checksum_length : s.c.expectedChecksum.length = s.cfg.cksumWidth.bytes
  rxbuf_filled : s.c.rxbuf.filledTo s.c.dataLoc.toNat

section
variable {s t : State}

theorem CtrlInv.stored (h : CtrlInv s) : CtrlStored s :=
  ⟨h.cursor_le, h.mark_aligned, h.capacity_allowed, h.checksum_length, h.rxbuf_filled⟩

theorem CtrlStored.ctrlInv_idle (h : CtrlStored s) (hstate : s.c.state = .idle)
    (hfull : s.c.dataLoc = s.c.capacity) : CtrlInv s :=
  { h with
    idle_full := fun _ => hfull
    ping_capacity := by simp [hstate]
    header_capacity := by simp [hstate]
    receiving := by simp [hstate] }

theorem CtrlStored.ctrlInv_awaitingPingResponse (h : CtrlStored s)
    (hstate : s.c.state = .awaitingPingResponse)
    (hcap : s.c.capacity.toNat = Config.pingResponseSize) : CtrlInv s :=
  { h with
    idle_full := by simp [hstate]
    ping_capacity := fun _ => hcap
    header_capacity := by simp [hstate]
    receiving := by simp [hstate] }

theorem CtrlStored.ctrlInv_awaitingStartOfStream (h : CtrlStored s)
    (hstate : s.c.state = .awaitingStartOfStream) (hcap : s.c.capacity.toNat = s.sosSize)
    (hpending : s.c.pendingReceiver ≠ none) : CtrlInv s :=
  { h with
    idle_full := by simp [hstate]
    ping_capacity := by simp [hstate]
    header_capacity := fun _ => ⟨hcap, hpending⟩
    receiving := by simp [hstate] }

theorem CtrlStored.ctrlInv_receivingData (h : CtrlStored s) (hstate : s.c.state = .receivingData)
    (hreceiving : s.c.capacity = pad32 s.c.expectedDataSize ∧ s.c.expectedDataSize ≠ 0#16 ∧
      s.c.pendingReceiver ≠ none ∧ s.c.reqMark ≤ s.c.capacity) : CtrlInv s :=
  { h with
    idle_full := by simp [hstate]
    ping_capacity := by simp [hstate]
    header_capacity := by simp [hstate]
    receiving := fun _ => hreceiving }

/-- The invariant speaks of the controller's registers and the parameters alone. -/
theorem CtrlInv.congr (h : CtrlInv s) (hc : t.c = s.c) (hcfg : t.cfg = s.cfg) : CtrlInv t := by
  obtain ⟨h1, h2, h3, h4, h5, h6, h7, h8, h9⟩ := h
  constructor <;> simpa only [sosSize_eq, hc, hcfg]

theorem CtrlStored.congr (h : CtrlStored s) (hc : t.c = s.c) (hcfg : t.cfg = s.cfg) :
    CtrlStored t := by
  obtain ⟨h1, h2, h3, h4, h5⟩ := h
  constructor <;> simpa only [hc, hcfg]

/-! The state-independent clauses under each register write. -/

theorem CtrlStored.setCtrlState (h : CtrlStored s) (x : CtrlState) :
    CtrlStored (setCtrlState x s) := { h with }

theorem CtrlStored.setConnected (h : CtrlStored s) (v : Bool) : CtrlStored (setConnected v s) :=
  { h with }

theorem CtrlStored.setPending (h : CtrlStored s) (v : Option Handle) :
    CtrlStored (setPending v s) := { h with }

theorem CtrlStored.recordIdentity (h : CtrlStored s) (now ty : Word32) (v : Word16) :
    CtrlStored (recordIdentity now ty v s) := { h with }

theorem CtrlStored.captureHeader (h : CtrlStored s) (d : Word16) {ck : List Byte}
    (hck : ck.length = s.cfg.cksumWidth.bytes) : CtrlStored (captureHeader d ck s) :=
  { h with mark_aligned := rfl, checksum_length := hck }

theorem CtrlStored.resetBuffer (h : CtrlStored s) {n : Nat}
    (hn : capacityAllowed s.cfg.cksumWidth (BitVec.ofNat 17 n).toNat = true) :
    CtrlStored (resetBuffer n s) :=
  { h with
    cursor_le := Nat.zero_le _
    capacity_allowed := hn
    rxbuf_filled := rfl }

/-! The capacities an operation sets, the length of a captured checksum, and the request mark. -/

theorem capacityAllowed_zero (w : CksumWidth) : capacityAllowed w 0 = true := rfl

theorem capacityAllowed_pingResponseSize (w : CksumWidth) :
    capacityAllowed w Config.pingResponseSize = true := by cases w <;> rfl

theorem capacityAllowed_sosSize (w : CksumWidth) : capacityAllowed w (Config.sosSize w) = true := by
  cases w <;> rfl

theorem capacityAllowed_pad32 (w : CksumWidth) (d : Word16) :
    capacityAllowed w (pad32 d).toNat = true := by
  have hd := d.isLt
  have hpad := pad32_toNat d
  have haligned : (pad32 d).toNat % 32 = 0 := by omega
  have hle : (pad32 d).toNat ≤ 65536 := by omega
  simp [capacityAllowed, Config.chunkSize, Config.maxPaddedSize, haligned, hle]

theorem toNat_ofNat_sosSize (w : CksumWidth) :
    (BitVec.ofNat 17 (Config.sosSize w)).toNat = Config.sosSize w := by
  cases w <;> rfl

/-- The checksum of a decoded header has W bytes (40_packet_codec.md R117). -/
theorem length_streamChecksum (w : CksumWidth) {buf : List Byte}
    (hbuf : buf.length = Config.sosSize w) :
    (decodeStartOfStream w buf).streamChecksum.length = w.bytes := by
  unfold decodeStartOfStream
  split
  case isTrue =>
    simp only [slice, List.length_take, List.length_drop, hbuf, Config.sosSize]
    omega
  case isFalse => exact List.length_replicate

/-- A chunk request keeps R30 and R32 (e): mark and capacity are multiples of 32, and a mark below
the capacity is at least 32 below it. -/
theorem reqMark_advance {mark : Word17} {d : Word16} (haligned : mark.toNat % 32 = 0)
    (hlt : mark < pad32 d) :
    (mark + 32#17).toNat % 32 = 0 ∧ mark + 32#17 ≤ pad32 d := by
  have hd := d.isLt
  have hpad := pad32_toNat d
  have hlt : mark.toNat < (pad32 d).toNat := hlt
  have hsum : (mark + 32#17).toNat = mark.toNat + 32 := by
    rw [BitVec.toNat_add, BitVec.toNat_ofNat]
    omega
  rw [BitVec.le_def, hsum]
  omega

/-! Each end of a poll. -/

theorem CtrlStored.releaseBuffer (h : CtrlStored s) : CtrlStored (releaseBuffer s) :=
  h.resetBuffer (capacityAllowed_zero _)

theorem CtrlStored.ctrlInv_endTransfer (h : CtrlStored s) : CtrlInv (endTransfer s) :=
  ((h.releaseBuffer.setPending none).setCtrlState .idle).ctrlInv_idle rfl rfl

theorem CtrlInv.pollEnd {now : Word32} {st : Status} (h : CtrlInv s) (hend : PollEnd now st s t) :
    CtrlInv t := by
  have hs := h.stored
  have hask (n : Nat) : CtrlStored (emitRequestFrom n s) := hs.congr rfl rfl
  have hwrite : CtrlStored (emitWrite encodePing st s) := hs.congr (by simp) (by simp)
  have hcomplete (b : Option (List Byte)) (d : Word16) (n : Word17) :
      CtrlStored (emitComplete b d n s) := hs.congr (by simp) (by simp)
  cases hend with
  | unchanged => exact h
  | silence =>
    exact (((hs.setCtrlState .idle).setConnected false).releaseBuffer.setPending none).ctrlInv_idle
      rfl rfl
  | headerAsked hpending =>
    have hcap : (BitVec.ofNat 17 s.sosSize).toNat = s.sosSize := toNat_ofNat_sosSize _
    have hstored := ((hask s.sosSize).resetBuffer
      (by rw [hcap]; exact capacityAllowed_sosSize _)).setCtrlState .awaitingStartOfStream
    exact hstored.ctrlInv_awaitingStartOfStream rfl hcap hpending
  | pingTimedOut =>
    have hsame : CtrlInv (emitWrite encodePing st s) := h.congr (by simp) (by simp)
    exact { hsame with }
  | pinged =>
    exact ((hwrite.resetBuffer (capacityAllowed_pingResponseSize _)).setCtrlState
      .awaitingPingResponse).ctrlInv_awaitingPingResponse rfl rfl
  | malformed hfull =>
    exact (((hs.setConnected false).setPending none).setCtrlState .idle).ctrlInv_idle rfl hfull
  | identified buf hstate hfull =>
    exact (((hs.recordIdentity now _ _).setConnected true).setCtrlState .idle).ctrlInv_idle
      rfl hfull
  | headerTaken header hstate hheader hsize =>
    obtain ⟨-, hpending⟩ := h.header_capacity hstate
    have hck : header.streamChecksum.length = s.cfg.cksumWidth.bytes := by
      rw [← hheader]
      exact length_streamChecksum _ (bytesFrom_length s _ _ _)
    have hcap : BitVec.ofNat 17 (pad32 header.dataSize).toNat = pad32 header.dataSize :=
      BitVec.eq_of_toNat_eq (by simp)
    have hstored := ((hs.captureHeader header.dataSize hck).resetBuffer
      (by rw [hcap]; exact capacityAllowed_pad32 _ _)).setCtrlState .receivingData
    exact hstored.ctrlInv_receivingData rfl ⟨hcap, hsize, hpending, Nat.zero_le _⟩
  | completed => exact (hcomplete _ _ _).ctrlInv_endTransfer
  | mismatched => exact (hcomplete _ _ _).ctrlInv_endTransfer
  | chunkAsked hstate hdue =>
    obtain ⟨hcap, hsize, hpending, -⟩ := h.receiving hstate
    rw [hcap] at hdue
    obtain ⟨haligned, hle⟩ := reqMark_advance hs.mark_aligned hdue
    rw [← hcap] at hle
    have hstored : CtrlStored (advanceReqMark (emitRequestFrom Config.chunkSize s)) :=
      { hs with mark_aligned := haligned }
    exact hstored.ctrlInv_receivingData hstate ⟨hcap, hsize, hpending, hle⟩

/-- The pull stores no byte past the capacity (41_controller_update.md R131), and none at all in
Idle, where the buffer is full. -/
theorem CtrlInv.pullPhase (now : Word32) (rx : List Byte) (h : CtrlInv s) :
    CtrlInv (pullPhase now rx s) where
  cursor_le := by
    have hcursor := (pullPhase_shown now rx s h.cursor_le).cursor
    rw [BitVec.le_def, hcursor, pullPhase_capacity]
    exact List.length_take_le _ _
  idle_full := fun hidle => by
    rw [pullPhase_full now rx s (h.idle_full (by simpa using hidle))]
    exact h.idle_full (by simpa using hidle)
  ping_capacity := by simpa using h.ping_capacity
  header_capacity := by simpa using h.header_capacity
  receiving := by simpa using h.receiving
  mark_aligned := by simpa using h.mark_aligned
  capacity_allowed := by simpa using h.capacity_allowed
  checksum_length := by simpa using h.checksum_length
  rxbuf_filled := by
    have hfilled := pull_filled (drainController (arriveAtController rx s.start))
      (pulledByController s rx) h.rxbuf_filled
    have hphase : Machine.pullPhase now rx s = stampArrival now (pulledByController s rx)
      (pull (pulledByController s rx) (drainController (arriveAtController rx s.start))) := rfl
    rw [hphase, stampArrival_c]
    exact hfilled

/-- R32 after construction (R35). -/
theorem ctrlInv_of_reset (hc : s.c = Ctrl.reset s.cfg) : CtrlInv s := by
  have hstored : CtrlStored s := by
    constructor <;> rw [hc]
    case cursor_le => exact Nat.le_refl 0
    case mark_aligned | rxbuf_filled => rfl
    case capacity_allowed => exact capacityAllowed_zero _
    case checksum_length => exact List.length_replicate
  exact hstored.ctrlInv_idle (by rw [hc]; rfl) (by rw [hc]; rfl)

theorem CtrlInv.controllerEnd {i : Instr} (h : CtrlInv s) (hend : ControllerEnd s i t) :
    CtrlInv t := by
  cases hend with
  | poll now rx st t hend => exact (h.pullPhase now rx).pollEnd hend
  | constructed => exact ctrlInv_of_reset rfl
  | requested cb =>
    exact { h with
      header_capacity := fun hstate => by
        obtain ⟨hcap, -⟩ := h.header_capacity hstate
        exact ⟨hcap, by simp⟩
      receiving := fun hstate => by
        obtain ⟨hcap, hsize, -, hmark⟩ := h.receiving hstate
        exact ⟨hcap, hsize, by simp, hmark⟩ }
  | timeoutSet v => exact { h with }
  | registerRead => exact h.congr rfl rfl

theorem CtrlInv.controllerSide (h : CtrlInv s) (hside : ControllerSide s t) : CtrlInv t := by
  obtain ⟨hc, -, -, hcfg, -⟩ := hside
  exact h.congr hc hcfg

/-! ### The invariant of the peripheral -/

/-- The invariant speaks of the peripheral's registers alone. -/
theorem PeriphInv.congr (h : PeriphInv s) (hp : t.p = s.p) : PeriphInv t := by
  obtain ⟨h1, h2, h3, h4⟩ := h
  constructor <;> simpa only [hp]

/-- R43 and R44 with no payload held. -/
theorem periphInv_of_empty (hlen : s.p.outLen = 0#16) (hcursor : s.p.sendCursor = 0#16)
    (hbuf : s.p.outbuf = []) : PeriphInv s where
  cursor_le := by rw [hlen, hcursor]; exact Nat.le_refl 0
  cursor_aligned := by rw [hcursor]; rfl
  idle_released := fun _ => ⟨hlen, hcursor⟩
  outbuf_filled := by rw [hlen, hbuf]; rfl

theorem PeriphInv.sendEnd (h : PeriphInv s) (hend : SendEnd s t) : PeriphInv t := by
  cases hend with
  | unchanged => exact h
  | loaded payload header hlen =>
    have htoNat : (BitVec.ofNat 16 payload.length).toNat = payload.length :=
      Nat.mod_eq_of_lt (Nat.lt_succ_of_le hlen)
    refine ⟨Nat.zero_le _, rfl, (fun hidle => by cases hidle), ?filled⟩
    show Memory.filledTo (Memory.ofBytes 0 payload) (BitVec.ofNat 16 payload.length).toNat
    rw [htoNat]
    exact Memory.filledTo_ofBytes payload
  | chunkSent chunk hstate hunsent =>
    have hfit : s.p.sendCursor.toNat + 32 ≤ s.p.outLen.toNat := by
      have hunsent : 32 ≤ s.p.outLen.toNat - s.p.sendCursor.toNat := hunsent
      omega
    have hlt := s.p.outLen.isLt
    have hsum : (s.p.sendCursor + 32#16).toNat = s.p.sendCursor.toNat + 32 := by
      rw [BitVec.toNat_add, BitVec.toNat_ofNat]
      omega
    have haligned : s.p.sendCursor.toNat % 32 = 0 := h.cursor_aligned
    exact { h with
      cursor_le := by simpa [BitVec.le_def, hsum] using hfit
      cursor_aligned := by simpa [hsum, Config.chunkSize] using haligned
      idle_released := fun hidle => absurd (hstate.symm.trans hidle) (by decide) }
  | tailSent | released => exact periphInv_of_empty rfl rfl rfl

theorem PeriphInv.peripheralSide (h : PeriphInv s) (hside : PeripheralSide s t) : PeriphInv t := by
  obtain ⟨hp, -⟩ := hside
  exact h.congr hp

theorem PeriphInv.sent {u : State} (h : PeriphInv s) (hkept : AgentsKept s u)
    (hend : SendEnd u t) : PeriphInv t :=
  (h.peripheralSide hkept.peripheral).sendEnd hend

theorem PeriphInv.peripheralEnd {i : Instr} (h : PeriphInv s) (hend : PeripheralEnd s i t) :
    PeriphInv t := by
  cases hend with
  | constructed => exact periphInv_of_empty rfl rfl rfl
  | sent i u t hkept hend => exact h.sent hkept hend

/-! ### The invariant of the machine -/

theorem Inv.stepEnd (h : Inv s) (hend : StepEnd s t) : Inv t := by
  have hctrl : CtrlInv s.fetched := h.ctrl.congr rfl rfl
  have hperiph : PeriphInv s.fetched := h.periph.congr rfl
  have hreg : s.fetched.bus.onRequestRegistered = true := h.registered
  cases hend with
  | controller i rest hinputs hend =>
    exact ⟨hctrl.controllerEnd hend, hperiph.peripheralSide hend.peripheralSide,
      hend.handler.trans hreg⟩
  | peripheral i rest hinputs hend =>
    exact ⟨hctrl.controllerSide hend.controllerSide, hperiph.peripheralEnd hend,
      hend.handler hreg⟩
  | fired u hkept hend =>
    exact ⟨hctrl.controllerSide (hkept.controller.trans hend.controllerSide),
      hperiph.sent hkept hend, hend.handler.trans (hkept.handler.trans hreg)⟩
  | quiet hkept =>
    exact ⟨hctrl.controllerSide hkept.controller, hperiph.peripheralSide hkept.peripheral,
      hkept.handler.trans hreg⟩

end

/-- Settles O15: each end of a step keeps the invariant of the agent that it writes. -/
theorem stepKeepsTheInvariant : Obligations.StepKeepsTheInvariant :=
  fun _ _ h hstep => h.stepEnd (stepEnd_of_step hstep)

/-! ### Reset -/

/-- Settles O14: reset is the construction of both agents. -/
theorem resetMeetsTheInvariant : Obligations.ResetMeetsTheInvariant :=
  ⟨ctrlInv_of_reset rfl, periphInv_of_empty rfl rfl rfl, rfl⟩

/-- Settles O13: each value is the reset record's own. -/
theorem resetValues : Obligations.ResetValues := by
  unfold Obligations.ResetValues
  decide

end Sys2Proof.Machine

/-! Proof of O17. A receive buffer changes only by the pull, which stores byte by byte, and by a
reset, which empties it; a payload buffer is laid down whole, released, or untouched. -/

namespace Sys2Proof.Machine

/-- Both buffer spaces hold their offsets strictly rising. -/
structure BuffersCanonical (s : State) : Prop where
  rxbuf : s.c.rxbuf.wf = true
  outbuf : s.p.outbuf.wf = true

section
variable {s t : State}

/-! ### The receive buffer -/

/-- After the pull a poll leaves the receive buffer alone or resets it (10_state.md R31). -/
theorem PollEnd.rxbuf {now : Word32} {st : Status} (h : PollEnd now st s t) :
    t.c.rxbuf = s.c.rxbuf ∨ t.c.rxbuf = [] := by
  cases h with
  | unchanged | malformed | identified | chunkAsked => exact .inl rfl
  | pingTimedOut => exact .inl (by simp [raise_transport])
  | silence | headerAsked | pinged | headerTaken | completed | mismatched => exact .inr rfl

theorem pullPhase_rxbuf_wf (now : Word32) (rx : List Byte) (h : s.c.rxbuf.wf = true) :
    (pullPhase now rx s).c.rxbuf.wf = true := by
  rw [pullPhase, stampArrival_c]
  exact pull_wf _ _ h

theorem ControllerEnd.rxbuf_wf {i : Instr} (hend : ControllerEnd s i t)
    (h : s.c.rxbuf.wf = true) : t.c.rxbuf.wf = true := by
  cases hend with
  | poll now rx st t hend =>
    obtain hkept | hempty := hend.rxbuf
    · rw [hkept]
      exact pullPhase_rxbuf_wf now rx h
    · rw [hempty]
      rfl
  | constructed => rfl
  | requested | timeoutSet | registerRead => exact h

theorem ControllerSide.rxbuf_wf (hside : ControllerSide s t) (h : s.c.rxbuf.wf = true) :
    t.c.rxbuf.wf = true := by
  obtain ⟨hc, -⟩ := hside
  rwa [hc]

/-! ### The payload buffer -/

theorem SendEnd.outbuf_wf (hend : SendEnd s t) (h : s.p.outbuf.wf = true) :
    t.p.outbuf.wf = true := by
  cases hend with
  | unchanged | chunkSent => exact h
  | loaded payload => exact (Memory.filledTo_ofBytes payload).wf
  | tailSent | released => rfl

theorem PeripheralSide.outbuf_wf (hside : PeripheralSide s t) (h : s.p.outbuf.wf = true) :
    t.p.outbuf.wf = true := by
  obtain ⟨hp, -⟩ := hside
  rwa [hp]

theorem PeripheralEnd.outbuf_wf {i : Instr} (hend : PeripheralEnd s i t)
    (h : s.p.outbuf.wf = true) : t.p.outbuf.wf = true := by
  cases hend with
  | constructed => rfl
  | sent i u t hkept hend => exact hend.outbuf_wf (hkept.peripheral.outbuf_wf h)

/-! ### One step -/

theorem BuffersCanonical.stepEnd (h : BuffersCanonical s) (hend : StepEnd s t) :
    BuffersCanonical t := by
  have hrx : s.fetched.c.rxbuf.wf = true := h.rxbuf
  have hout : s.fetched.p.outbuf.wf = true := h.outbuf
  cases hend with
  | controller i rest hinputs hend =>
    exact ⟨hend.rxbuf_wf hrx, hend.peripheralSide.outbuf_wf hout⟩
  | peripheral i rest hinputs hend =>
    exact ⟨hend.controllerSide.rxbuf_wf hrx, hend.outbuf_wf hout⟩
  | fired u hkept hend =>
    exact ⟨(hkept.controller.trans hend.controllerSide).rxbuf_wf hrx,
      hend.outbuf_wf (hkept.peripheral.outbuf_wf hout)⟩
  | quiet hkept =>
    exact ⟨hkept.controller.rxbuf_wf hrx, hkept.peripheral.outbuf_wf hout⟩

end

/-- Settles O17: each end of a step keeps the form of the buffer that it writes. -/
theorem stepKeepsBuffersCanonical : Obligations.StepKeepsBuffersCanonical := by
  intro s t hrx hout hstep
  obtain ⟨hrx', hout'⟩ := BuffersCanonical.stepEnd ⟨hrx, hout⟩ (stepEnd_of_step hstep)
  exact ⟨hrx', hout'⟩

end Sys2Proof.Machine

/-! Proofs of O55 and O57 to O60: each step of the reference bus in an equation per case, enabled
or not (20_memory.md R82, R84, R86, R87), and arrivals at the controller's port in a row. -/

namespace Sys2Proof.Machine

section
variable {s t : State}

/-- The bytes of both buffers read as before once the registers and the reset counters are the
same. -/
theorem OnlyTransport.of (hc : t.c = s.c) (hp : t.p = s.p) (hout : t.out = [])
    (hfree : t.free = s.free) (hcfg : t.cfg = s.cfg) (hinputs : t.inputs = s.inputs) :
    OnlyTransport s t :=
  ⟨hc, hp, hout, hfree, ⟨hcfg, hinputs⟩,
    .rxbuf_of (by rw [hc]) (by rw [hfree]), .outbuf_of (by rw [hp]) (by rw [hfree])⟩

/-! ### Each bus step, enabled and not -/

theorem execBus_deliverC2P_cons {b : Byte} {rest : List Byte} (h : s.bus.c2pWire = b :: rest) :
    execBus .deliverC2P s = .next (arriveAtPeripheral [b] (setC2PWire rest s.start)) := by
  simp only [execBus, busDeliverC2P, h]

theorem execBus_deliverC2P_nil (h : s.bus.c2pWire = []) :
    execBus .deliverC2P s = .refused (.busStepNotEnabled .deliverC2P) := by
  simp only [execBus, busDeliverC2P, h]

theorem execBus_deliverP2C_cons {b : Byte} {rest : List Byte} (h : s.bus.p2cWire = b :: rest) :
    execBus .deliverP2C s = .next (arriveAtController [b] (setP2CWire rest s.start)) := by
  simp only [execBus, busDeliverP2C, h]

theorem execBus_deliverP2C_nil (h : s.bus.p2cWire = []) :
    execBus .deliverP2C s = .refused (.busStepNotEnabled .deliverP2C) := by
  simp only [execBus, busDeliverP2C, h]

/-- The registered handler is `P.ON_REQUEST`, on the state whose event has been taken (R71, R86). -/
theorem execBus_fireRequest_enabled (bytes : List Byte) (n : Nat)
    (h : 0 < s.bus.reqEvents ∧ s.bus.onRequestRegistered = true) :
    execBus (.fireRequest bytes n) s = exec (.pOnRequest bytes n) (takeRequestEvent s) :=
  if_pos h

theorem execBus_fireRequest_disabled (bytes : List Byte) (n : Nat)
    (h : ¬ (0 < s.bus.reqEvents ∧ s.bus.onRequestRegistered = true)) :
    execBus (.fireRequest bytes n) s = .refused (.busStepNotEnabled (.fireRequest bytes n)) :=
  if_neg h

/-- FILL may come when no byte of the peripheral's can (R87). -/
def fillEnabled (s : State) : Prop :=
  0 < s.bus.credit ∧ s.bus.p2cWire = [] ∧ s.bus.reqEvents = 0 ∧ s.p.state = .idle

theorem execBus_fill_enabled (b : Byte) (h : fillEnabled s) :
    execBus (.fill b) s = .next (arriveAtController [b] s.start) :=
  if_pos h

theorem execBus_fill_disabled (b : Byte) (h : ¬ fillEnabled s) :
    execBus (.fill b) s = .refused (.busStepNotEnabled (.fill b)) :=
  if_neg h

/-! ### The request event while sending -/

theorem exec_pOnRequest_sendingData (bytes : List Byte) (n : Nat)
    (h : s.p.state = .sendingData) : exec (.pOnRequest bytes n) s = .next s.start := by
  have hstart : s.start.p.state = .sendingData := h
  simp only [exec, execPOnRequest, onRequest, hstart]

/-! ### Arrivals in a row -/

theorem arriveAtController_append (x y : List Byte) (s : State) :
    arriveAtController y (arriveAtController x s) = arriveAtController (x ++ y) s := by
  simp [arriveAtController, Nat.sub_sub]

/-- A pull does not tell the bytes of an earlier arrival from those that come with the poll
(R69). -/
theorem pullPhase_after_arrival (now : Word32) (x rx : List Byte) (r : Ret) (s : State) :
    pullPhase now rx ((arriveAtController x s.start).returning r) =
      pullPhase now (x ++ rx) s := by
  have harrive : arriveAtController rx ((arriveAtController x s.start).returning r).start =
      arriveAtController (x ++ rx) s.start := arriveAtController_append x rx s.start
  simp only [pullPhase, harrive]

/-! ### Many deliveries -/

theorem deliveries_succ {b : Byte} {rest : List Byte} (n : Nat) (h : s.bus.p2cWire = b :: rest) :
    deliveries (n + 1) s = deliveries n (arriveAtController [b] (setP2CWire rest s.start)) := by
  rw [deliveries, execBus_deliverP2C_cons h, andThen]

end

/-- Settles O58, by induction on the number of deliveries: each moves the head byte of the wire to
the tail of the queue. -/
theorem deliveriesKeepTheOrder : Obligations.DeliveriesKeepTheOrder := by
  intro n
  induction n with
  | zero => exact fun s _ => ⟨s, by simp [deliveries]⟩
  | succ n ih =>
    intro s hn
    cases hwire : s.bus.p2cWire with
    | nil => simp [hwire] at hn
    | cons b rest =>
      have hrest : n ≤ rest.length := by simpa [hwire] using hn
      obtain ⟨t, hrun, hqueue, hleft, hcredit, hc, hp⟩ :=
        ih (arriveAtController [b] (setP2CWire rest s.start)) hrest
      refine ⟨t, (deliveries_succ n hwire).trans hrun, ?queue, hleft, ?credit, hc, hp⟩
      case queue => simpa using hqueue
      case credit =>
        rw [hcredit]
        show s.bus.credit - 1 - n = s.bus.credit - (n + 1)
        omega

/-- Settles O55: the byte in the queue and the bytes of the poll make one arrival. -/
theorem earlierArrivalsArePulled : Obligations.EarlierArrivalsArePulled := by
  intro s d now rx st _
  refine ⟨(arriveAtController [d] s.start).returning .none, rfl, ?poll⟩
  show afterPull now st (pullPhase now rx _) = afterPull now st (pullPhase now (d :: rx) s)
  rw [pullPhase_after_arrival, List.singleton_append]

/-- Settles O57, by the two deliveries on a wire with a head byte and on an empty one. -/
theorem deliveryMovesTheHeadByte : Obligations.DeliveryMovesTheHeadByte := by
  intro s
  refine ⟨?toPeripheral, ?toController, execBus_deliverC2P_nil, execBus_deliverP2C_nil⟩
  case toPeripheral =>
    intro b rest hwire
    exact ⟨_, execBus_deliverC2P_cons hwire, rfl, rfl, .of rfl rfl rfl rfl rfl rfl⟩
  case toController =>
    intro b rest hwire
    exact ⟨_, execBus_deliverP2C_cons hwire, rfl, rfl, .of rfl rfl rfl rfl rfl rfl⟩

/-- Settles O59: a firing is `P.ON_REQUEST` after one event is taken, and the refusal is the
complement of its two conditions. -/
theorem requestEventFiresOnce : Obligations.RequestEventFiresOnce := by
  intro s bytes n
  refine ⟨fun hpending hreg => execBus_fireRequest_enabled bytes n ⟨hpending, hreg⟩,
    ?sending, ?disabled⟩
  case sending =>
    intro hpending hreg hsending
    have hrun : execBus (.fireRequest bytes n) s = .next (takeRequestEvent s).start :=
      (execBus_fireRequest_enabled bytes n ⟨hpending, hreg⟩).trans
        (exec_pOnRequest_sendingData bytes n hsending)
    exact ⟨_, hrun, rfl, rfl, .of rfl rfl rfl rfl rfl rfl⟩
  case disabled =>
    intro hoff
    refine execBus_fireRequest_disabled bytes n fun ⟨hpending, hreg⟩ => ?_
    obtain hnone | hunreg := hoff
    · omega
    · exact absurd (hreg.symm.trans hunreg) (by decide)

/-- Settles O60: the refusal is the complement of the four conditions of R87. -/
theorem fillNeedsCreditAndSilence : Obligations.FillNeedsCreditAndSilence := by
  intro s b
  refine ⟨?enabled, ?disabled⟩
  case enabled =>
    intro hcredit hwire hevents hidle
    exact ⟨_, execBus_fill_enabled b ⟨hcredit, hwire, hevents, hidle⟩, rfl, rfl,
      .of rfl rfl rfl rfl rfl rfl⟩
  case disabled =>
    intro hoff
    refine execBus_fill_disabled b fun ⟨hcredit, hwire, hevents, hidle⟩ => ?_
    obtain hnone | hbusy | hpending | hsending := hoff
    · omega
    · exact hbusy hwire
    · omega
    · exact absurd (hidle.symm.trans hsending) (by decide)

end Sys2Proof.Machine

/-! Proofs of O1, O2, O5, O6, O10, O11 and O12. The encoder and the decoder of each packet are
inverse to each other (40_packet_codec.md R118); `decode` adds the test of the size (R120) and of
the tag (R99) to that. -/

namespace Sys2Proof

/-! ### The big-endian helpers -/

theorem be16_toNat (s : List Byte) (i : Nat) :
    (be16 s i).toNat = (byteAt s i).toNat * 256 + (byteAt s (i + 1)).toNat :=
  toNat_append_byte _ _

theorem be32_toNat (s : List Byte) (i : Nat) :
    (be32 s i).toNat = (byteAt s i).toNat * 2 ^ 24 + (byteAt s (i + 1)).toNat * 2 ^ 16 +
      (byteAt s (i + 2)).toNat * 2 ^ 8 + (byteAt s (i + 3)).toNat := by
  have hwords : (be32 s i).toNat = (be16 s i).toNat * 65536 + (be16 s (i + 2)).toNat :=
    toNat_append_word _ _
  have hlow : (be16 s (i + 2)).toNat =
      (byteAt s (i + 2)).toNat * 256 + (byteAt s (i + 3)).toNat := be16_toNat s (i + 2)
  rw [hwords, be16_toNat s i, hlow]
  omega

theorem put16_toNat (v : Word16) :
    (put16 v).map BitVec.toNat = [v.toNat / 256, v.toNat % 256] := by
  have hv := v.isLt
  simp only [put16, List.map_cons, List.map_nil, BitVec.extractLsb'_toNat,
    Nat.shiftRight_eq_div_pow, List.cons.injEq, and_true]
  omega

theorem put32_toNat (v : Word32) :
    (put32 v).map BitVec.toNat =
      [v.toNat / 2 ^ 24, v.toNat / 2 ^ 16 % 256, v.toNat / 2 ^ 8 % 256, v.toNat % 256] := by
  have hv := v.isLt
  simp only [put32, List.map_cons, List.map_nil, BitVec.extractLsb'_toNat,
    Nat.shiftRight_eq_div_pow, List.cons.injEq, and_true, true_and]
  omega

/-- A byte string is known by its bytes as numbers. -/
theorem bytes_eq_of_toNat {x y : List Byte} (h : x.map BitVec.toNat = y.map BitVec.toNat) :
    x = y :=
  List.map_injective_iff.2 (fun _ _ => BitVec.eq_of_toNat_eq) h

theorem put32_append (a b c d : Byte) : put32 ((a ++ b) ++ (c ++ d)) = [a, b, c, d] := by
  have ha := a.isLt
  have hb := b.isLt
  have hc := c.isLt
  have hd := d.isLt
  apply bytes_eq_of_toNat
  rw [put32_toNat, toNat_append_word, toNat_append_byte, toNat_append_byte]
  simp only [List.map_cons, List.map_nil, List.cons.injEq, and_true]
  omega

/-! ### The codec functions, on the right tag -/

theorem decodePing_valid_iff (buf : List Byte) :
    (decodePing buf).valid = true ↔ byteAt buf 0 = Config.tagPing :=
  decide_eq_true_iff

theorem decodePingResponse_of_tag {buf : List Byte} (h : byteAt buf 0 = Config.tagPingResponse) :
    decodePingResponse buf =
      { valid := true, peripheralType := be32 buf 1, peripheralVersion := be16 buf 5 } :=
  if_pos h

theorem decodePingResponse_valid_iff (buf : List Byte) :
    (decodePingResponse buf).valid = true ↔ byteAt buf 0 = Config.tagPingResponse := by
  unfold decodePingResponse
  split <;> simp_all

theorem decodeStartOfStream_of_tag (w : CksumWidth) {buf : List Byte}
    (h : byteAt buf 0 = Config.tagStartOfStream) :
    decodeStartOfStream w buf =
      { valid := true, dataSize := be16 buf 1, streamChecksum := slice buf 3 w.bytes } :=
  if_pos h

theorem decodeStartOfStream_valid_iff (w : CksumWidth) (buf : List Byte) :
    (decodeStartOfStream w buf).valid = true ↔ byteAt buf 0 = Config.tagStartOfStream := by
  unfold decodeStartOfStream
  split <;> simp_all

/-- Settles O5, by the four helpers as numbers and the two decoders on their own tag. -/
theorem fieldsAreBigEndian : Obligations.FieldsAreBigEndian := by
  refine ⟨be16_toNat, be32_toNat, put16_toNat, put32_toNat, ?pingResponse, ?startOfStream⟩
  case pingResponse =>
    intro buf htag
    rw [decodePingResponse_of_tag htag]
    exact ⟨rfl, rfl⟩
  case startOfStream =>
    intro w buf htag
    rw [decodeStartOfStream_of_tag w htag]

/-! ### From a packet to its bytes and back -/

theorem decodePingResponse_encodePingResponse (t : Word32) (v : Word16) :
    decodePingResponse (encodePingResponse t v) =
      { valid := true, peripheralType := t, peripheralVersion := v } := by
  have htype : be32 (encodePingResponse t v) 1 = t := append_extract_word32 t
  have hversion : be16 (encodePingResponse t v) 5 = v := append_extract_word16 v
  rw [decodePingResponse_of_tag rfl, htype, hversion]

theorem decodeStartOfStream_encodeStartOfStream {w : CksumWidth} (d : Word16) {ck : List Byte}
    (hck : ck.length = w.bytes) :
    decodeStartOfStream w (encodeStartOfStream d ck) =
      { valid := true, dataSize := d, streamChecksum := ck } := by
  have hsize : be16 (encodeStartOfStream d ck) 1 = d := append_extract_word16 d
  have hchecksum : slice (encodeStartOfStream d ck) 3 w.bytes = ck :=
    List.take_of_length_le (l := ck) hck.le
  rw [decodeStartOfStream_of_tag w rfl, hsize, hchecksum]

theorem length_encodeStartOfStream {w : CksumWidth} (d : Word16) {ck : List Byte}
    (hck : ck.length = w.bytes) : (encodeStartOfStream d ck).length = Config.sosSize w := by
  simp only [encodeStartOfStream, put16, List.length_append, List.length_cons, List.length_nil, hck,
    Config.sosSize]

/-! ### From bytes to a packet and back -/

theorem encodePing_of_tag {buf : List Byte} (hlen : buf.length = Config.pingSize)
    (htag : byteAt buf 0 = Config.tagPing) : encodePing = buf := by
  match buf, hlen with
  | [tag], _ =>
    obtain rfl : tag = Config.tagPing := htag
    rfl

theorem encodePingResponse_of_tag {buf : List Byte} (hlen : buf.length = Config.pingResponseSize)
    (htag : byteAt buf 0 = Config.tagPingResponse) :
    encodePingResponse (be32 buf 1) (be16 buf 5) = buf := by
  match buf, hlen with
  | [tag, t0, t1, t2, t3, v0, v1], _ =>
    obtain rfl : tag = Config.tagPingResponse := htag
    show [Config.tagPingResponse] ++ put32 ((t0 ++ t1) ++ (t2 ++ t3)) ++ put16 (v0 ++ v1) = _
    rw [put32_append, put16_append]
    rfl

theorem encodeStartOfStream_of_tag {w : CksumWidth} {buf : List Byte}
    (hlen : buf.length = Config.sosSize w) (htag : byteAt buf 0 = Config.tagStartOfStream) :
    encodeStartOfStream (be16 buf 1) (slice buf 3 w.bytes) = buf := by
  match buf, hlen with
  | tag :: d0 :: d1 :: ck, hlen =>
    obtain rfl : tag = Config.tagStartOfStream := htag
    have hck : ck.length ≤ w.bytes := by
      simp only [List.length_cons, Config.sosSize] at hlen
      omega
    show [Config.tagStartOfStream] ++ put16 (d0 ++ d1) ++ ck.take w.bytes = _
    rw [put16_append, List.take_of_length_le hck]
    rfl
  | [], hlen | [_], hlen | [_, _], hlen =>
    simp only [List.length_cons, List.length_nil, Config.sosSize] at hlen
    omega

theorem length_checksum_slice {w : CksumWidth} {buf : List Byte}
    (hlen : buf.length = Config.sosSize w) : (slice buf 3 w.bytes).length = w.bytes := by
  simp only [slice, List.length_take, List.length_drop, hlen, Config.sosSize]
  omega

theorem singleton_byteAt {buf : List Byte} (hlen : buf.length = 1) : [byteAt buf 0] = buf := by
  match buf, hlen with
  | [_], _ => rfl

/-! ### The decoder: the size, and the tag of each format -/

theorem decode_eq_ok_iff {f : Format} {bytes : List Byte} {i : Instr} :
    decode f bytes = .ok i ↔ bytes.length = formatSize f ∧ decodePacket f bytes = some i := by
  unfold decode
  split
  case isFalse hlen => simp [hlen]
  case isTrue hlen =>
    cases decodePacket f bytes <;> simp [hlen]

theorem decodePacket_ping_iff {bytes : List Byte} {i : Instr} :
    decodePacket .ping bytes = some i ↔ byteAt bytes 0 = Config.tagPing ∧ .ping = i := by
  simp only [decodePacket, Option.ite_none_right_eq_some, Option.some.injEq, decodePing_valid_iff]

theorem decodePacket_pingResp_iff {bytes : List Byte} {i : Instr} :
    decodePacket .pingResp bytes = some i ↔
      byteAt bytes 0 = Config.tagPingResponse ∧ .pingResp (be32 bytes 1) (be16 bytes 5) = i := by
  simp only [decodePacket, Option.ite_none_right_eq_some, Option.some.injEq,
    decodePingResponse_valid_iff]
  exact and_congr_right fun htag => by rw [decodePingResponse_of_tag htag]

theorem decodePacket_sos4_iff {bytes : List Byte} {i : Instr} :
    decodePacket .sos4 bytes = some i ↔
      byteAt bytes 0 = Config.tagStartOfStream ∧ .sos4 (be16 bytes 1) (slice bytes 3 4) = i := by
  simp only [decodePacket, Option.ite_none_right_eq_some, Option.some.injEq,
    decodeStartOfStream_valid_iff]
  exact and_congr_right fun htag => by rw [decodeStartOfStream_of_tag _ htag]; rfl

theorem decodePacket_sos16_iff {bytes : List Byte} {i : Instr} :
    decodePacket .sos16 bytes = some i ↔
      byteAt bytes 0 = Config.tagStartOfStream ∧ .sos16 (be16 bytes 1) (slice bytes 3 16) = i := by
  simp only [decodePacket, Option.ite_none_right_eq_some, Option.some.injEq,
    decodeStartOfStream_valid_iff]
  exact and_congr_right fun htag => by rw [decodeStartOfStream_of_tag _ htag]; rfl

theorem decodePacket_data_iff {bytes : List Byte} {i : Instr} :
    decodePacket .data bytes = some i ↔ .data (byteAt bytes 0) = i :=
  Option.some_inj

/-- What decodes is the packet of its format, with the fields it was read from. -/
theorem encode_of_decodePacket {f : Format} {bytes : List Byte} {i : Instr}
    (hlen : bytes.length = formatSize f) (h : decodePacket f bytes = some i) :
    encode i = some bytes ∧ formatOf i = some f ∧ i.wellFormed = true := by
  cases f with
  | ping =>
    obtain ⟨htag, rfl⟩ := decodePacket_ping_iff.1 h
    exact ⟨congrArg some (encodePing_of_tag hlen htag), rfl, rfl⟩
  | pingResp =>
    obtain ⟨htag, rfl⟩ := decodePacket_pingResp_iff.1 h
    exact ⟨congrArg some (encodePingResponse_of_tag hlen htag), rfl, rfl⟩
  | sos4 =>
    obtain ⟨htag, rfl⟩ := decodePacket_sos4_iff.1 h
    exact ⟨congrArg some (encodeStartOfStream_of_tag (w := .w4) hlen htag), rfl,
      beq_iff_eq.2 (length_checksum_slice (w := .w4) hlen)⟩
  | sos16 =>
    obtain ⟨htag, rfl⟩ := decodePacket_sos16_iff.1 h
    exact ⟨congrArg some (encodeStartOfStream_of_tag (w := .w16) hlen htag), rfl,
      beq_iff_eq.2 (length_checksum_slice (w := .w16) hlen)⟩
  | data =>
    obtain rfl := decodePacket_data_iff.1 h
    exact ⟨congrArg some (singleton_byteAt hlen), rfl, rfl⟩

/-- Settles O2, by the size and the tag that a successful decode has found. -/
theorem decodedPacketsEncodeBack : Obligations.DecodedPacketsEncodeBack := by
  intro f bytes i h
  obtain ⟨hlen, hpacket⟩ := decode_eq_ok_iff.1 h
  exact encode_of_decodePacket hlen hpacket

/-! ### The encoder -/

theorem decode_encodePing : decode .ping encodePing = .ok .ping := rfl

theorem decode_encodePingResponse (t : Word32) (v : Word16) :
    decode .pingResp (encodePingResponse t v) = .ok (.pingResp t v) := by
  refine decode_eq_ok_iff.2 ⟨rfl, ?_⟩
  rw [decodePacket, decodePingResponse_encodePingResponse]
  rfl

theorem decode_encodeStartOfStream_w4 (d : Word16) {ck : List Byte}
    (hck : ck.length = CksumWidth.w4.bytes) :
    decode .sos4 (encodeStartOfStream d ck) = .ok (.sos4 d ck) := by
  refine decode_eq_ok_iff.2 ⟨length_encodeStartOfStream d hck, ?_⟩
  rw [decodePacket, decodeStartOfStream_encodeStartOfStream d hck]
  rfl

theorem decode_encodeStartOfStream_w16 (d : Word16) {ck : List Byte}
    (hck : ck.length = CksumWidth.w16.bytes) :
    decode .sos16 (encodeStartOfStream d ck) = .ok (.sos16 d ck) := by
  refine decode_eq_ok_iff.2 ⟨length_encodeStartOfStream d hck, ?_⟩
  rw [decodePacket, decodeStartOfStream_encodeStartOfStream d hck]
  rfl

theorem decode_data (d : Byte) : decode .data [d] = .ok (.data d) := rfl

/-- A well-formed instruction is a packet that decodes to itself, or has neither a format nor
bytes (30_encoding.md R102). -/
theorem decode_encode_or_operation {i : Instr} (hw : i.wellFormed = true) :
    (∃ f bytes, formatOf i = some f ∧ encode i = some bytes ∧ decode f bytes = .ok i) ∨
      (formatOf i = none ∧ encode i = none) := by
  cases i with
  | ping => exact .inl ⟨_, _, rfl, rfl, decode_encodePing⟩
  | pingResp t v => exact .inl ⟨_, _, rfl, rfl, decode_encodePingResponse t v⟩
  | sos4 d ck => exact .inl ⟨_, _, rfl, rfl, decode_encodeStartOfStream_w4 d (beq_iff_eq.1 hw)⟩
  | sos16 d ck => exact .inl ⟨_, _, rfl, rfl, decode_encodeStartOfStream_w16 d (beq_iff_eq.1 hw)⟩
  | data d => exact .inl ⟨_, _, rfl, rfl, decode_data d⟩
  | _ => exact .inr ⟨rfl, rfl⟩

/-- Settles O1: a packet that decodes has its format's size. -/
theorem wirePacketsDecodeToThemselves : Obligations.WirePacketsDecodeToThemselves := by
  intro i hw
  obtain ⟨f, bytes, hformat, hencode, hdecode⟩ | ⟨hformat, hencode⟩ :=
    decode_encode_or_operation hw
  case inl =>
    refine ⟨fun g hg => ?packet, fun hnone => by simp [hformat] at hnone⟩
    obtain rfl : f = g := Option.some_inj.1 (hformat.symm.trans hg)
    exact ⟨bytes, hencode, (decode_eq_ok_iff.1 hdecode).1, hdecode⟩
  case inr => exact ⟨fun g hg => by simp [hformat] at hg, fun _ => hencode⟩

/-! ### Table words -/

theorem decodeTableWord_eq_some_iff {nbits w : Nat} {i : Instr} :
    decodeTableWord nbits w = some i ↔
      decode (tableFormat nbits w) (wordBytes (nbits / 8) w) = .ok i := by
  unfold decodeTableWord
  cases decode (tableFormat nbits w) (wordBytes (nbits / 8) w) <;>
    simp [Except.toOption]

/-- Settles O6: each clause is one word of the table, evaluated; the last has the Ping's tag on
seven bytes. -/
theorem specWordsDecode : Obligations.SpecWordsDecode := by
  refine ⟨?ping, ?pingResp, ?pingRespFields, ?sos4, ?sos16, ?data, ?wrongTag⟩ <;> decide

end Sys2Proof

namespace Sys2Proof.Machine

/-! ### Arrivals -/

theorem onlyTransport_arriveAtReceiver (f : Format) (bytes : List Byte) (s : State) (r : Ret) :
    OnlyTransport s ((arriveAtReceiver f bytes s.start).returning r) :=
  .of (by simp) (by simp) (by simp) (by simp) (by simp) (by simp)

/-- What an instruction that is the arrival of a packet does: the bytes join the receiver's queue,
and their record is returned. -/
theorem exists_next_of_arrival {i : Instr} {f : Format} {bytes : List Byte} {s : State} {r : Ret}
    (hexec : exec i s = .next (packetArrives f bytes s)) (hlen : bytes.length = formatSize f)
    (hread : recordRead f bytes = r) :
    ∃ t, exec i s = .next t ∧
      t.bus = (if f = .ping then { s.bus with pRx := s.bus.pRx ++ bytes }
        else { s.bus with cRx := s.bus.cRx ++ bytes, credit := s.bus.credit - formatSize f }) ∧
      t.ret = r ∧ OnlyTransport s t := by
  refine ⟨_, hexec, ?bus, hread, onlyTransport_arriveAtReceiver f bytes s _⟩
  rw [← hlen]
  exact arriveAtReceiver_bus s.start f bytes

theorem exec_sos4 {ck : List Byte} (d : Word16) (s : State)
    (hck : ck.length = CksumWidth.w4.bytes) :
    exec (.sos4 d ck) s = .next (packetArrives .sos4 (encodeStartOfStream d ck) s) :=
  if_pos hck

theorem exec_sos16 {ck : List Byte} (d : Word16) (s : State)
    (hck : ck.length = CksumWidth.w16.bytes) :
    exec (.sos16 d ck) s = .next (packetArrives .sos16 (encodeStartOfStream d ck) s) :=
  if_pos hck

/-- Settles O10: each packet instruction is the arrival of its bytes, which decode to its own
fields. -/
theorem packetsReachTheirReceiver : Obligations.PacketsReachTheirReceiver := by
  intro s
  refine ⟨?ping, ?pingResp, ?sos4, ?sos16, ?data⟩
  case ping => exact exists_next_of_arrival (f := .ping) rfl rfl rfl
  case pingResp =>
    exact fun ty v => exists_next_of_arrival (f := .pingResp) rfl rfl
      (congrArg Ret.pingResponse (decodePingResponse_encodePingResponse ty v))
  case sos4 =>
    exact fun d ck hck => exists_next_of_arrival (exec_sos4 d s hck)
      (length_encodeStartOfStream d hck)
      (congrArg Ret.startOfStream (decodeStartOfStream_encodeStartOfStream d hck))
  case sos16 =>
    exact fun d ck hck => exists_next_of_arrival (exec_sos16 d s hck)
      (length_encodeStartOfStream d hck)
      (congrArg Ret.startOfStream (decodeStartOfStream_encodeStartOfStream d hck))
  case data => exact fun d => exists_next_of_arrival (f := .data) rfl rfl rfl

/-! ### One step -/

theorem fetched_eq {s : State} {item : Stimulus} {rest : List Stimulus}
    (h : s.inputs = item :: rest) : s.fetched = { s with inputs := rest } := by
  rw [State.fetched, h, List.tail_cons]

theorem step_wire_of_decode_ok {s : State} {f : Format} {bytes : List Byte} {rest : List Stimulus}
    {i : Instr} (h : s.inputs = .wire f bytes :: rest) (hd : decode f bytes = .ok i) :
    step s = exec i s.fetched := by
  simp only [step, fetch, h, hd, State.fetched, List.tail_cons]

theorem step_wire_of_decode_error {s : State} {f : Format} {bytes : List Byte}
    {rest : List Stimulus} {e : DecodeError} (h : s.inputs = .wire f bytes :: rest)
    (hd : decode f bytes = .error e) : step s = rawBytesArrive f bytes s.fetched := by
  simp only [step, fetch, h, hd, State.fetched, List.tail_cons]

/-- Settles O11, by what a step does on each kind of item and on an empty trace. -/
theorem stepRunsTheNextItem : Obligations.StepRunsTheNextItem := by
  intro s rest
  refine ⟨?packet, ?raw, ?op, ?bus, step_nil⟩
  case packet =>
    intro f bytes i hinputs hdecode
    rw [step_wire_of_decode_ok hinputs hdecode, fetched_eq hinputs]
  case raw =>
    intro f bytes e hinputs hdecode
    rw [step_wire_of_decode_error hinputs hdecode, rawBytesArrive_eq, fetched_eq hinputs]
    exact ⟨_, rfl, onlyTransport_arriveAtReceiver f bytes _ _,
      arriveAtReceiver_bus (State.start _) f bytes, rfl⟩
  case op =>
    intro i hinputs
    rw [step_op hinputs, fetched_eq hinputs]
  case bus =>
    intro b hinputs
    rw [step_bus hinputs, fetched_eq hinputs]

/-- Settles O12: the placed item is fetched, and the rest of the trace is the one before. -/
theorem placedWordRunsNext : Obligations.PlacedWordRunsNext := by
  intro s nbits w i hword
  have hinputs : (s.withFetchWord nbits w).inputs =
      .wire (tableFormat nbits w) (wordBytes (nbits / 8) w) :: s.inputs := rfl
  rw [step_wire_of_decode_ok hinputs (decodeTableWord_eq_some_iff.1 hword), fetched_eq hinputs]
  rfl

end Sys2Proof.Machine

/-! Proofs of O3, O4, O7, O8 and O9. The codec functions are inverse to each other on the right tag
(40_packet_codec.md R118) and give the sentinel on any other (R119); the six codec operations return
what these functions give on operands of the fixed size, and refuse any other size (R120). -/

namespace Sys2Proof

/-! ### The round trips -/

/-- Settles O3: each decoder inverts its encoder, and the encoder gives back the bytes that the
fields of a packet with the right tag were read from. -/
theorem codecRoundTrips : Obligations.CodecRoundTrips := by
  refine ⟨rfl, decodePingResponse_encodePingResponse,
    fun _ d _ hck => decodeStartOfStream_encodeStartOfStream d hck, ?pingResponse, ?startOfStream⟩
  case pingResponse =>
    intro buf hlen htag
    rw [decodePingResponse_of_tag htag]
    exact encodePingResponse_of_tag hlen htag
  case startOfStream =>
    intro w buf hlen htag
    rw [decodeStartOfStream_of_tag w htag]
    exact encodeStartOfStream_of_tag hlen htag

/-! ### The codec functions, on a wrong tag -/

theorem decodePing_of_ne_tag {buf : List Byte} (h : byteAt buf 0 ≠ Config.tagPing) :
    decodePing buf = { valid := false } :=
  congrArg PingRecord.mk (decide_eq_false h)

theorem decodePingResponse_of_ne_tag {buf : List Byte}
    (h : byteAt buf 0 ≠ Config.tagPingResponse) :
    decodePingResponse buf =
      { valid := false, peripheralType := 0#32, peripheralVersion := 0#16 } :=
  if_neg h

theorem decodeStartOfStream_of_ne_tag (w : CksumWidth) {buf : List Byte}
    (h : byteAt buf 0 ≠ Config.tagStartOfStream) :
    decodeStartOfStream w buf =
      { valid := false, dataSize := 0#16, streamChecksum := List.replicate w.bytes 0#8 } :=
  if_neg h

/-- Settles O4: none of the three decoders looks at the payload behind a wrong tag. -/
theorem wrongTagsGiveTheSentinel : Obligations.WrongTagsGiveTheSentinel :=
  ⟨fun _ _ htag => decodePing_of_ne_tag htag,
    fun _ _ htag => decodePingResponse_of_ne_tag htag,
    fun w _ _ htag => decodeStartOfStream_of_ne_tag w htag⟩

/-! ### The checksum field of a buffer of the fixed size -/

theorem checksum_slice_eq_drop {w : CksumWidth} {buf : List Byte}
    (hlen : buf.length = Config.sosSize w) : slice buf 3 w.bytes = buf.drop 3 := by
  have hrest : (buf.drop 3).length ≤ w.bytes := by
    simp only [List.length_drop, hlen, Config.sosSize]
    omega
  exact List.take_of_length_le hrest

/-- The checksum of a buffer of the fixed size is all that follows the size field. -/
theorem decodeStartOfStream_of_length {w : CksumWidth} {buf : List Byte}
    (hlen : buf.length = Config.sosSize w) :
    decodeStartOfStream w buf =
      if byteAt buf 0 = Config.tagStartOfStream then
        { valid := true, dataSize := be16 buf 1, streamChecksum := buf.drop 3 }
      else
        { valid := false, dataSize := 0#16, streamChecksum := List.replicate w.bytes 0#8 } := by
  rw [← checksum_slice_eq_drop hlen, decodeStartOfStream]

end Sys2Proof

namespace Sys2Proof.Machine

/-! ### Codec operations in general -/

theorem onlyOutputs_returning (s : State) (r : Ret) : OnlyOutputs s (s.start.returning r) :=
  ⟨rfl, rfl, rfl, rfl, ⟨rfl, rfl⟩, .rxbuf_of rfl rfl, .outbuf_of rfl rfl⟩

/-- What a codec operation on operands of the right size does: it returns its result, and nothing
else is new (R110). -/
theorem exists_next_of_codecResult {i : Instr} {s : State} {sized : Bool} {r : Ret}
    (hexec : exec i s = codecResult sized r s) (hsized : sized = true) :
    ∃ t, exec i s = .next t ∧ t.ret = r ∧ t.out = [] ∧ OnlyOutputs s t :=
  ⟨_, hexec.trans (if_pos hsized), rfl, rfl, onlyOutputs_returning s r⟩

theorem exec_refused_of_length_ne {i : Instr} {s : State} {bytes : List Byte} {n : Nat} {r : Ret}
    (hexec : exec i s = codecResult (bytes.length == n) r s) (hlen : bytes.length ≠ n) :
    exec i s = .refused .codecLength :=
  hexec.trans (if_neg fun hsized => hlen (beq_iff_eq.1 hsized))

/-! ### The codec operations whose operands have a size -/

section
variable (s : State) (d : Word16) (buf : List Byte)

theorem exec_decodePing : exec (.decodePing buf) s =
    codecResult (buf.length == Config.pingSize) (.ping (decodePing buf)) s := rfl

theorem exec_decodePingResponse : exec (.decodePingResponse buf) s =
    codecResult (buf.length == Config.pingResponseSize)
      (.pingResponse (decodePingResponse buf)) s := rfl

theorem exec_encodeStartOfStream : exec (.encodeStartOfStream d buf) s =
    codecResult (buf.length == s.cfg.cksumWidth.bytes) (.bytes (encodeStartOfStream d buf)) s := rfl

theorem exec_decodeStartOfStream : exec (.decodeStartOfStream buf) s =
    codecResult (buf.length == Config.sosSize s.cfg.cksumWidth)
      (.startOfStream (decodeStartOfStream s.cfg.cksumWidth buf)) s := rfl

end

/-- Settles O7: each encoder's result goes to the caller, and it has the fixed size. -/
theorem encodersReturnThePacket : Obligations.EncodersReturnThePacket := by
  intro s
  refine ⟨?ping, ?pingResponse, ?startOfStream⟩
  case ping => exact exists_next_of_codecResult rfl rfl
  case pingResponse =>
    intro ty v
    obtain ⟨t, hnext, hret, hout, hframe⟩ :=
      exists_next_of_codecResult (i := .encodePingResponse ty v) (s := s) rfl rfl
    exact ⟨t, hnext, hret, rfl, hout, hframe⟩
  case startOfStream =>
    intro d ck hck
    obtain ⟨t, hnext, hret, hout, hframe⟩ :=
      exists_next_of_codecResult (exec_encodeStartOfStream s d ck) (beq_iff_eq.2 hck)
    exact ⟨t, hnext, hret, length_encodeStartOfStream d hck, hout, hframe⟩

/-- Settles O8: each decoder's record goes to the caller; on the fixed size the StartOfStream
checksum is the rest of the buffer. -/
theorem decodersReturnTheRecord : Obligations.DecodersReturnTheRecord := by
  intro s buf
  refine ⟨?ping, ?pingResponse, ?startOfStream⟩
  case ping =>
    exact fun hlen => exists_next_of_codecResult (exec_decodePing s buf) (beq_iff_eq.2 hlen)
  case pingResponse =>
    exact fun hlen =>
      exists_next_of_codecResult (exec_decodePingResponse s buf) (beq_iff_eq.2 hlen)
  case startOfStream =>
    intro hlen
    have hexec := exec_decodeStartOfStream s buf
    rw [decodeStartOfStream_of_length hlen] at hexec
    exact exists_next_of_codecResult hexec (beq_iff_eq.2 hlen)

/-! ### Packet terms whose checksum has another size -/

theorem exec_sos4_refused {ck : List Byte} (d : Word16) (s : State)
    (hck : ck.length ≠ CksumWidth.w4.bytes) : exec (.sos4 d ck) s = .refused .codecLength :=
  if_neg hck

theorem exec_sos16_refused {ck : List Byte} (d : Word16) (s : State)
    (hck : ck.length ≠ CksumWidth.w16.bytes) : exec (.sos16 d ck) s = .refused .codecLength :=
  if_neg hck

/-- Settles O9: the four codec operations that take a byte string test its size, and so do the two
StartOfStream terms. -/
theorem otherSizesAreRefused : Obligations.OtherSizesAreRefused := fun s buf d =>
  ⟨exec_refused_of_length_ne (exec_decodePing s buf),
    exec_refused_of_length_ne (exec_decodePingResponse s buf),
    exec_refused_of_length_ne (exec_decodeStartOfStream s buf),
    exec_refused_of_length_ne (exec_encodeStartOfStream s d buf),
    exec_sos4_refused d s, exec_sos16_refused d s⟩

end Sys2Proof.Machine

/-! Proofs of O25 to O34, O38, O39, O54 and O56. A poll of the controller has one equation for each
way it ends: deferred, silent, a frame still incomplete, or a complete frame of each kind. The
statements read their registers off the right-hand sides, and the two that span several polls chain
the equations. -/

namespace Sys2Proof.Machine

section
variable {now : Word32} {rx : List Byte} {st : Status} {s t : State}

/-! ### A poll that the liveness rules end -/

theorem exec_cUpdate_deferred (hstate : s.c.state = .idle)
    (hsince : (sinceLastByte now rx s).toNat ≤ 10) :
    exec (.cUpdate now rx st) s = .next (pullPhase now rx s) :=
  if_pos ((noiseDeferred_pullPhase now rx s).2 ⟨hstate, hsince⟩)

/-- Silence means that nothing was pulled either. -/
theorem exec_cUpdate_silent (hstate : s.c.state ≠ .idle)
    (hsince : s.c.timeoutPeriod.toNat < (sinceLastByte now rx s).toNat) :
    exec (.cUpdate now rx st) s = .next (raise .silence s.start) := by
  have hdeferred : noiseDeferred now (pullPhase now rx s) ≠ true := by
    rw [Ne, noiseDeferred_pullPhase]
    exact fun ⟨hidle, _⟩ => hstate hidle
  have hexpired : silenceExpired now (pullPhase now rx s) = true :=
    (silenceExpired_pullPhase now rx s).2 ⟨hstate, hsince⟩
  obtain ⟨hqueue, rfl⟩ := nothing_pulled (Nat.zero_lt_of_lt hsince)
  rw [pullPhase_nothing now s hqueue] at hdeferred hexpired
  show afterPull now st (pullPhase now [] s) = _
  rw [pullPhase_nothing now s hqueue, afterPull, if_neg hdeferred, if_pos hexpired]

/-- A poll that pulls a byte stamps its own time: no time has passed since the last byte. -/
theorem sinceLastByte_of_pulled (hpulled : pulledByController s rx ≠ []) :
    sinceLastByte now rx s = 0#32 := by
  simp [sinceLastByte, stampAfter, hpulled, elapsed]

/-! ### A poll that leaves the frame incomplete -/

theorem frameComplete_pullPhase_eq_false (hcursor : s.c.dataLoc ≤ s.c.capacity)
    (hpart : ¬ frameFull rx s) : frameComplete (pullPhase now rx s) = false := by
  rw [← Bool.not_eq_true, frameComplete_pullPhase now rx s hcursor]
  exact hpart

theorem exec_cUpdate_awaiting (hcursor : s.c.dataLoc ≤ s.c.capacity)
    (hstate : s.c.state = .awaitingPingResponse ∨ s.c.state = .awaitingStartOfStream)
    (hlive : (sinceLastByte now rx s).toNat ≤ s.c.timeoutPeriod.toNat)
    (hpart : ¬ frameFull rx s) :
    exec (.cUpdate now rx st) s = .next (pullPhase now rx s) := by
  have hincomplete := frameComplete_pullPhase_eq_false (now := now) hcursor hpart
  obtain hstate | hstate := hstate <;> rw [exec_cUpdate_live (by simp [hstate]) hlive]
  · simp [stateSwitch, hstate, pingResponseArm, hincomplete]
  · simp [stateSwitch, hstate, startOfStreamArm, hincomplete]

theorem exec_cUpdate_receiving (hcursor : s.c.dataLoc ≤ s.c.capacity)
    (hstate : s.c.state = .receivingData)
    (hlive : (sinceLastByte now rx s).toNat ≤ s.c.timeoutPeriod.toNat)
    (hpart : ¬ frameFull rx s) :
    exec (.cUpdate now rx st) s = .next
      (if chunkRequestDue (pullPhase now rx s) then
        advanceReqMark (emitRequestFrom Config.chunkSize (pullPhase now rx s))
      else pullPhase now rx s) := by
  have hincomplete := frameComplete_pullPhase_eq_false (now := now) hcursor hpart
  rw [exec_cUpdate_live (by simp [hstate]) hlive]
  simp only [stateSwitch, pullPhase_state, hstate, receivingArm, hincomplete, Bool.false_eq_true,
    if_false, apply_ite Host.Outcome.next]

/-! ### A poll that completes a frame -/

theorem length_frameAfter_le : (frameAfter rx s).length ≤ s.c.capacity.toNat :=
  List.length_take_le _ _

theorem memRead_frame (hcursor : s.c.dataLoc ≤ s.c.capacity) (hfull : frameFull rx s) {n : Nat}
    (hn : s.c.capacity.toNat = n) :
    memRead .rxbuf 0 n (pullPhase now rx s) = .ok (frameAfter rx s) := by
  rw [memRead_pullPhase now rx s hcursor hfull n hn.ge,
    List.take_of_length_le (length_frameAfter_le.trans hn.le)]

theorem exec_cUpdate_pingResponse (h : CtrlInv s) (hstate : s.c.state = .awaitingPingResponse)
    (hlive : (sinceLastByte now rx s).toNat ≤ s.c.timeoutPeriod.toNat) (hfull : frameFull rx s) :
    exec (.cUpdate now rx st) s = .next
      (acceptPingResponse now (decodePingResponse (frameAfter rx s)) (pullPhase now rx s)) := by
  have hcomplete := (frameComplete_pullPhase now rx s h.cursor_le).2 hfull
  rw [exec_cUpdate_live (by simp [hstate]) hlive]
  simp only [stateSwitch, pullPhase_state, hstate, pingResponseArm, hcomplete, if_true,
    memRead_frame h.cursor_le hfull (h.ping_capacity hstate), withBytes_ok]

theorem exec_cUpdate_startOfStream (h : CtrlInv s) (hstate : s.c.state = .awaitingStartOfStream)
    (hlive : (sinceLastByte now rx s).toNat ≤ s.c.timeoutPeriod.toNat) (hfull : frameFull rx s) :
    exec (.cUpdate now rx st) s = .next (acceptStartOfStream
      (decodeStartOfStream s.cfg.cksumWidth (frameAfter rx s)) (pullPhase now rx s)) := by
  have hcomplete := (frameComplete_pullPhase now rx s h.cursor_le).2 hfull
  have hcap : s.c.capacity.toNat = Config.sosSize s.cfg.cksumWidth := (h.header_capacity hstate).1
  rw [exec_cUpdate_live (by simp [hstate]) hlive]
  simp only [stateSwitch, pullPhase_state, hstate, startOfStreamArm, hcomplete, if_true, sosSize_eq,
    pullPhase_cfg, memRead_frame h.cursor_le hfull hcap, withBytes_ok]

theorem exec_cUpdate_transfer (h : CtrlInv s) (hstate : s.c.state = .receivingData)
    (hlive : (sinceLastByte now rx s).toNat ≤ s.c.timeoutPeriod.toNat) (hfull : frameFull rx s) :
    exec (.cUpdate now rx st) s = .next (completeTransfer
      ((frameAfter rx s).take s.c.expectedDataSize.toNat) (frameAfter rx s)
      (pullPhase now rx s)) := by
  have hcomplete := (frameComplete_pullPhase now rx s h.cursor_le).2 hfull
  have hsize : s.c.expectedDataSize.toNat ≤ s.c.capacity.toNat := by
    simpa [frameReadSize, hstate] using h.frameReadSize_le
  rw [exec_cUpdate_live (by simp [hstate]) hlive]
  simp only [stateSwitch, pullPhase_state, hstate, receivingArm, hcomplete, if_true,
    pullPhase_capacity, pullPhase_expectedDataSize, withBytes_ok,
    memRead_pullPhase now rx s h.cursor_le hfull _ hsize, memRead_frame h.cursor_le hfull rfl]

/-! ### What the end of a poll shows of its pull -/

/-- An end of a poll that writes neither the buffer nor the stamp still shows the pull. -/
theorem pullShown_of_pullPhase (h : CtrlInv s)
    (hbuf : t.c.rxbuf = (pullPhase now rx s).c.rxbuf)
    (hloc : t.c.dataLoc = (pullPhase now rx s).c.dataLoc)
    (hfree : t.free = s.free)
    (hstamp : t.c.lastBytesReceivedMs = (pullPhase now rx s).c.lastBytesReceivedMs) :
    PullShown now rx s t :=
  (pullPhase_shown now rx s h.cursor_le).congr hbuf hloc (by rw [hfree, pullPhase_free]) hstamp

theorem exec_cUpdate_peripheralSide (hexec : exec (.cUpdate now rx st) s = .next t) :
    PeripheralSide s t :=
  exec_peripheralSide (by simp [agentOf]) hexec

end

/-! ### Polls in Idle -/

/-- Settles O25: in Idle the buffer is full (R32 (b)), so the pull only stamps. -/
theorem idlePollInNoiseWindowIsDeferred : Obligations.IdlePollInNoiseWindowIsDeferred := by
  intro s now rx st h hstate hsince
  have hc := pullPhase_full now rx s (h.idle_full hstate)
  exact ⟨_, exec_cUpdate_deferred hstate hsince, hc, pullPhase_bus now rx s,
    pullPhase_out now rx s, pullPhase_ret now rx s, pullPhase_free now rx s,
    .rxbuf_of (by rw [hc]) (by rw [pullPhase_free]), pullPhase_peripheralSide now rx s⟩

theorem idleArm_of_pending (now : Word32) (st : Status) {s : State} {cb : Handle}
    (hpending : s.c.pendingReceiver = some cb) :
    idleArm now st s = setCtrlState .awaitingStartOfStream
      (resetBuffer s.sosSize (emitRequestFrom s.sosSize s)) := by
  simp only [idleArm, hpending]

/-- Settles O26, by the Idle arm on a pending receiver. -/
theorem idlePollServesThePendingRequest : Obligations.IdlePollServesThePendingRequest := by
  intro s now rx st cb _ hstate hsince hpending
  have hpending' : s.start.c.pendingReceiver = some cb := hpending
  have hexec := exec_cUpdate_idle (st := st) hstate hsince
  rw [idleArm_of_pending now st hpending'] at hexec
  exact ⟨_, hexec, rfl, rfl, rfl, rfl, exec_cUpdate_peripheralSide hexec⟩

theorem heartbeatDue_iff (now : Word32) (s : State) :
    heartbeatDue now s = true ↔ 20 ≤ (elapsed now s.c.lastPingMs).toNat := by
  simp [heartbeatDue, Config.heartbeatMs, BitVec.le_def]

theorem idleArm_of_heartbeatDue {now : Word32} (st : Status) {s : State}
    (hnone : s.c.pendingReceiver = none) (hdue : heartbeatDue now s = true) :
    idleArm now st s =
      if st = .timeout then raise .transport (emitWrite encodePing st s)
      else setCtrlState .awaitingPingResponse
        (resetBuffer Config.pingResponseSize (emitWrite encodePing st s)) := by
  simp [idleArm, hnone, hdue, isTimeout]

theorem idleArm_of_nothing_due {now : Word32} (st : Status) {s : State}
    (hnone : s.c.pendingReceiver = none) (hdue : heartbeatDue now s ≠ true) :
    idleArm now st s = s := by
  simp [idleArm, hnone, hdue]

/-- Settles O27: both classes of status follow the same write of the Ping. -/
theorem idlePollSendsADuePing : Obligations.IdlePollSendsADuePing := by
  intro s now rx st _ hstate hsince hnone hdue
  have hdue' : heartbeatDue now s.start = true := (heartbeatDue_iff now s).2 hdue
  have hexec := exec_cUpdate_idle (st := st) hstate hsince
  rw [idleArm_of_heartbeatDue (s := s.start) st hnone hdue'] at hexec
  by_cases htimeout : st = .timeout
  case pos =>
    rw [if_pos htimeout] at hexec
    refine ⟨_, hexec, emitWrite_out _ _ _, ?registers, emitWrite_bus _ _ _,
      fun _ => ⟨emitWrite_free _ _ _, .rxbuf_of ?buffer ?epoch⟩, emitWrite_ret _ _ _,
      exec_cUpdate_peripheralSide hexec⟩
    case registers =>
      rw [if_pos htimeout, raise_transport, setConnected_c, emitWrite_c, start_c]
    case buffer => rw [raise_transport, setConnected_c, emitWrite_c, start_c]
    case epoch => rw [raise_transport, setConnected_free, emitWrite_free, start_free]
  case neg =>
    rw [if_neg htimeout] at hexec
    refine ⟨_, hexec, emitWrite_out _ _ _, ?registers, emitWrite_bus _ _ _,
      fun hst => absurd hst htimeout, emitWrite_ret _ _ _, exec_cUpdate_peripheralSide hexec⟩
    rw [if_neg htimeout, setCtrlState_c, resetBuffer_c, emitWrite_c]
    rfl

/-- Settles O28: with nothing due the Idle arm is the identity. -/
theorem idlePollWithNothingDue : Obligations.IdlePollWithNothingDue := by
  intro s now rx st _ hstate hsince hnone hdue
  have hdue' : heartbeatDue now s.start ≠ true := by
    rw [Ne, heartbeatDue_iff]
    exact Nat.not_le.2 hdue
  have hexec := exec_cUpdate_idle (st := st) hstate hsince
  rw [idleArm_of_nothing_due (s := s.start) st hnone hdue'] at hexec
  exact ⟨_, hexec, rfl, rfl, onlyOutputs_returning s .none⟩

/-! ### Silence and incomplete packets -/

/-- Settles O29: the poll has pulled nothing, and the failure class writes what R244 lists. -/
theorem silenceAbandonsTheExchange : Obligations.SilenceAbandonsTheExchange :=
  fun _ _ _ _ hstate hsince =>
    ⟨_, exec_cUpdate_silent hstate hsince, rfl, raise_silence_c _, rfl, rfl,
      .of rfl rfl rfl rfl⟩

/-- Settles O30: the poll ends after its pull. -/
theorem incompletePacketWaits : Obligations.IncompletePacketWaits :=
  fun s now rx _ h hstate hlive hpart =>
    ⟨_, exec_cUpdate_awaiting h.cursor_le hstate hlive hpart, pullPhase_out now rx s,
      pullPhase_unpulled now rx s, pullPhase_shown now rx s h.cursor_le, pullPhase_bus now rx s,
      pullPhase_ret now rx s, pullPhase_free now rx s, pullPhase_peripheralSide now rx s⟩

/-! ### Complete packets -/

/-- What a poll that raises the malformed class does (60_exceptions.md R242); both expected packets
end so on their sentinel. -/
theorem exists_next_of_malformed {s : State} {now : Word32} {rx : List Byte} {st : Status}
    (h : CtrlInv s)
    (hexec : exec (.cUpdate now rx st) s = .next (raise .malformed (pullPhase now rx s))) :
    ∃ t, exec (.cUpdate now rx st) s = .next t ∧ t.out = [] ∧
      t.c.unpulled =
        { s.c.unpulled with connected := false, pendingReceiver := none, state := .idle } ∧
      PullShown now rx s t ∧ t.bus = drainedBus s rx ∧ t.ret = .none ∧ t.free = s.free ∧
      PeripheralSide s t := by
  refine ⟨_, hexec, pullPhase_out now rx s, ?registers,
    pullShown_of_pullPhase h rfl rfl (pullPhase_free now rx s) rfl, pullPhase_bus now rx s,
    pullPhase_ret now rx s, pullPhase_free now rx s,
    exec_cUpdate_peripheralSide hexec⟩
  rw [raise_malformed_c, pullPhase_c]
  rfl

/-- Settles O31: on type 0 the arm raises the malformed class. -/
theorem invalidPingResponseDisconnects : Obligations.InvalidPingResponseDisconnects := by
  intro s now rx st h hstate hlive hfull htype
  have hexec := exec_cUpdate_pingResponse (st := st) h hstate hlive hfull
  rw [acceptPingResponse, if_pos htype] at hexec
  exact exists_next_of_malformed h hexec

/-- Settles O32, by the three register writes of R143 after the pull. -/
theorem validPingResponseConnects : Obligations.ValidPingResponseConnects := by
  intro s now rx st h hstate hlive hfull htype
  have hexec := exec_cUpdate_pingResponse (st := st) h hstate hlive hfull
  rw [acceptPingResponse, if_neg htype] at hexec
  refine ⟨_, hexec, pullPhase_out now rx s, ?registers,
    pullShown_of_pullPhase h rfl rfl (pullPhase_free now rx s) rfl, pullPhase_bus now rx s,
    pullPhase_ret now rx s, pullPhase_free now rx s,
    exec_cUpdate_peripheralSide hexec⟩
  rw [setCtrlState_c, setConnected_c, recordIdentity_c, pullPhase_c]
  rfl

/-- Settles O33: on size 0 the arm raises the malformed class. -/
theorem invalidStartOfStreamDropsTheRequest : Obligations.InvalidStartOfStreamDropsTheRequest := by
  intro s now rx st h hstate hlive hfull hsize
  have hexec := exec_cUpdate_startOfStream (st := st) h hstate hlive hfull
  rw [acceptStartOfStream, if_pos hsize] at hexec
  exact exists_next_of_malformed h hexec

/-- Settles O34, by the capture of the header and the buffer reset of R146 after the pull. -/
theorem validStartOfStreamBeginsReceiving : Obligations.ValidStartOfStreamBeginsReceiving := by
  rintro s now rx st header h hstate hlive hfull rfl hsize
  have hexec := exec_cUpdate_startOfStream (st := st) h hstate hlive hfull
  rw [acceptStartOfStream, if_neg hsize, pad32_toNat] at hexec
  refine ⟨_, hexec, pullPhase_out now rx s, ?registers, pullPhase_bus now rx s,
    pullPhase_ret now rx s, exec_cUpdate_peripheralSide hexec⟩
  rw [setCtrlState_c, resetBuffer_c, captureHeader_c, pullPhase_c]

/-! ### What every poll keeps -/

section
variable {now : Word32} {rx : List Byte} {st : Status} {s t : State}

/-- The three queues that a poll's port calls do not touch (20_memory.md R80, R81, R85). -/
theorem PollEnd.queues (h : PollEnd now st s t) :
    t.bus.cRx = s.bus.cRx ∧ t.bus.pRx = s.bus.pRx ∧ t.bus.p2cWire = s.bus.p2cWire := by
  have hwrite : (emitWrite encodePing st s).bus.cRx = s.bus.cRx ∧
      (emitWrite encodePing st s).bus.pRx = s.bus.pRx ∧
      (emitWrite encodePing st s).bus.p2cWire = s.bus.p2cWire := by
    rw [emitWrite_bus]
    split <;> exact ⟨rfl, rfl, rfl⟩
  cases h <;> simp [hwrite]

theorem PollEnd.lastBytesReceivedMs (h : PollEnd now st s t) :
    t.c.lastBytesReceivedMs = s.c.lastBytesReceivedMs := by
  cases h <;> simp [raise_transport, raise_malformed_c, raise_checksum_c, raise_silence_c]

/-- A list of output events as one poll may have it (00_scope.md R16): at most one, and none of the
peripheral's. -/
def AtMostOneCall (out : List Event) : Prop :=
  out.length ≤ 1 ∧ ∀ b, Event.send b ∉ out

theorem atMostOneCall_nil : AtMostOneCall [] := ⟨Nat.zero_le 1, fun _ => List.not_mem_nil⟩

theorem atMostOneCall_singleton {e : Event} (he : ∀ b, .send b ≠ e) : AtMostOneCall [e] :=
  ⟨Nat.le_refl 1, fun b hmem => he b (List.mem_singleton.1 hmem)⟩

theorem atMostOneCall_emitComplete {s : State} (hs : s.out = []) (b : Option (List Byte))
    (d : Word16) (n : Word17) : AtMostOneCall (emitComplete b d n s).out := by
  rw [emitComplete_out, hs]
  split
  · exact atMostOneCall_singleton nofun
  · exact atMostOneCall_nil

/-- Each end of a poll makes at most one port call or completion, after a pull that makes none. -/
theorem PollEnd.atMostOneCall (h : PollEnd now st s t) (hs : s.out = []) :
    AtMostOneCall t.out := by
  have hask (n : Nat) : AtMostOneCall (emitRequestFrom n s).out := by
    rw [emitRequestFrom_out, hs]
    exact atMostOneCall_singleton nofun
  have hwrite : AtMostOneCall (emitWrite encodePing st s).out := by
    rw [emitWrite_out, hs]
    exact atMostOneCall_singleton nofun
  have hquiet : AtMostOneCall s.out := hs ▸ atMostOneCall_nil
  cases h with
  | unchanged | silence | malformed | identified | headerTaken => exact hquiet
  | headerAsked | chunkAsked => exact hask _
  | pingTimedOut | pinged => exact hwrite
  | completed | mismatched => exact atMostOneCall_emitComplete hs _ _ _

/-- Settles O38, by what each end of a poll keeps of the state after its pull. -/
theorem pollEmitsAtMostOneEvent : Obligations.PollEmitsAtMostOneEvent := by
  intro s t now rx st hexec
  have hend : PollEnd now st (pullPhase now rx s) t := pollEnd_of_afterPull hexec
  obtain ⟨hlength, hsend⟩ := hend.atMostOneCall (pullPhase_out now rx s)
  obtain ⟨hcRx, hpRx, hwire⟩ := hend.queues
  rw [pullPhase_bus] at hcRx hpRx hwire
  exact ⟨hlength, hsend, hcRx, hpRx, hwire, by rw [hend.timeoutPeriod, pullPhase_timeoutPeriod],
    by rw [hend.lastBytesReceivedMs, pullPhase_lastBytesReceivedMs],
    exec_cUpdate_peripheralSide hexec⟩

/-! ### The transition table -/

/-- The moves of `C.state` that a poll can make (41_controller_update.md R147); staying is one. -/
inductive CtrlMove : CtrlState → CtrlState → Prop
  | stay (x : CtrlState) : CtrlMove x x
  | toIdle (x : CtrlState) : CtrlMove x .idle
  | ping : CtrlMove .idle .awaitingPingResponse
  | request : CtrlMove .idle .awaitingStartOfStream
  | header : CtrlMove .awaitingStartOfStream .receivingData

theorem ctrlMove_idleArm (now : Word32) (st : Status) (hstate : s.c.state = .idle) :
    CtrlMove .idle (idleArm now st s).c.state := by
  cases hpending : s.c.pendingReceiver with
  | some cb =>
    rw [idleArm_of_pending now st hpending]
    exact .request
  | none =>
    by_cases hdue : heartbeatDue now s = true
    · rw [idleArm_of_heartbeatDue st hpending hdue]
      split
      · rw [raise_transport, setConnected_c, emitWrite_c, hstate]
        exact .stay _
      · exact .ping
    · rw [idleArm_of_nothing_due st hpending hdue, hstate]
      exact .stay _

theorem ctrlMove_acceptPingResponse (now : Word32) (pr : PingResponseRecord) (x : CtrlState) :
    CtrlMove x (acceptPingResponse now pr s).c.state := by
  unfold acceptPingResponse
  split <;> exact .toIdle x

theorem ctrlMove_acceptStartOfStream (header : StartOfStreamRecord) :
    CtrlMove .awaitingStartOfStream (acceptStartOfStream header s).c.state := by
  unfold acceptStartOfStream
  split
  · exact .toIdle _
  · exact .header

theorem ctrlMove_completeTransfer (payload buffer : List Byte) (x : CtrlState) :
    CtrlMove x (completeTransfer payload buffer s).c.state := by
  unfold completeTransfer
  split <;> exact .toIdle x

theorem ctrlMove_of_afterPull (h : afterPull now st s = .next t) :
    CtrlMove s.c.state t.c.state := by
  obtain rfl | ⟨-, rfl⟩ | ⟨hstate, rfl⟩ | ⟨-, -, rfl⟩ | ⟨hstate, -, rfl⟩ | ⟨-, -, rfl⟩ |
    ⟨-, -, -, rfl⟩ := afterPull_next h
  · exact .stay _
  · exact .toIdle _
  · exact hstate ▸ ctrlMove_idleArm now st hstate
  · exact ctrlMove_acceptPingResponse now _ _
  · exact hstate ▸ ctrlMove_acceptStartOfStream _
  · exact ctrlMove_completeTransfer _ _ _
  · exact .stay _

/-- Of the controller's operations the poll moves as the table says, `C.NEW` goes to Idle, and the
others leave `C.state` alone. -/
theorem ControllerEnd.ctrlMove {i : Instr} (hend : ControllerEnd s i t)
    (hexec : exec i s = .next t) : CtrlMove s.c.state t.c.state := by
  cases hend with
  | poll now rx st t =>
    have hmove := ctrlMove_of_afterPull (s := pullPhase now rx s) hexec
    rwa [pullPhase_state] at hmove
  | constructed => exact .toIdle _
  | requested | timeoutSet | registerRead => exact .stay _

theorem ctrlMove_of_step (hstep : step s = .next t) : CtrlMove s.c.state t.c.state := by
  obtain ⟨hc, -⟩ | ⟨i, rest, hinputs, hend⟩ := (stepEnd_of_step hstep).controllerSide_or
  · rw [hc]
    exact .stay _
  · exact hend.ctrlMove ((step_op hinputs).symm.trans hstep)

end

/-- Settles O39: the table's moves but for staying. -/
theorem controllerMovesAsTheTableSays : Obligations.ControllerMovesAsTheTableSays := by
  intro s t hstep hmoved
  have hmove := ctrlMove_of_step hstep
  generalize s.c.state = before, t.c.state = after at hmove hmoved ⊢
  cases hmove with
  | stay => exact absurd rfl hmoved
  | toIdle => exact .inl rfl
  | ping => exact .inr (.inl ⟨rfl, .inl rfl⟩)
  | request => exact .inr (.inl ⟨rfl, .inr rfl⟩)
  | header => exact .inr (.inr ⟨rfl, rfl⟩)

/-! ### A whole reception -/

section
variable {now : Word32} {rx : List Byte} {st : Status} {s s₀ t : State} {cb : Handle}
  {bytes : List Byte}

/-- The event that ends a transfer whose buffer holds `buffer` and whose payload is `payload`
(42_stream_receiver.md R175 to R177). -/
def completionEvent (s : State) (cb : Handle) (payload buffer : List Byte) : Event :=
  if Config.cksum s.cfg.cksumWidth payload = s.c.expectedChecksum then
    .complete cb (some buffer) s.c.expectedDataSize s.c.capacity
  else .complete cb none 0#16 0#17

/-- With a receiver pending, match and mismatch differ in the event alone (R178). -/
theorem completeTransfer_of_pending (payload buffer : List Byte)
    (hpending : s.c.pendingReceiver = some cb) :
    completeTransfer payload buffer s =
      endTransfer (s.emit (completionEvent s cb payload buffer)) := by
  unfold completeTransfer completionEvent
  split <;> simp [raise, emitComplete, hpending]

/-- A frame that fits the buffer is all that was stored and all that is pulled. -/
theorem frameAfter_of_fits
    (hfits : (storedBytes s ++ pulledByController s rx).length ≤ s.c.capacity.toNat) :
    frameAfter rx s = storedBytes s ++ pulledByController s rx :=
  List.take_of_length_le hfits

theorem pulledByController_of_empty (hqueue : s.bus.cRx = []) : pulledByController s rx = rx := by
  rw [pulledByController, hqueue, List.nil_append]

theorem storedBytes_of_empty (hempty : s.c.dataLoc = 0#17) : storedBytes s = [] := by
  rw [storedBytes, hempty]
  rfl

/-- A reception under way: the transfer that `s₀` begins, with `bytes` stored so far. -/
structure Receiving (s₀ : State) (bytes : List Byte) (s : State) : Prop where
  inv : CtrlInv s
  state : s.c.state = .receivingData
  capacity : s.c.capacity = s₀.c.capacity
  pending : s.c.pendingReceiver = s₀.c.pendingReceiver
  connected : s.c.connected = s₀.c.connected
  size : s.c.expectedDataSize = s₀.c.expectedDataSize
  checksum : s.c.expectedChecksum = s₀.c.expectedChecksum
  cfg : s.cfg = s₀.cfg
  queue : s.bus.cRx = []
  stored : storedBytes s = bytes

theorem Receiving.frameAfter (h : Receiving s₀ bytes s)
    (hfits : (bytes ++ rx).length ≤ s₀.c.capacity.toNat) :
    frameAfter rx s = bytes ++ rx := by
  have hframe : storedBytes s ++ pulledByController s rx = bytes ++ rx := by
    rw [h.stored, pulledByController_of_empty h.queue]
  rw [← hframe, frameAfter_of_fits (by rwa [hframe, h.capacity])]

theorem Receiving.pullPhase (now : Word32) (h : Receiving s₀ bytes s)
    (hfits : (bytes ++ rx).length ≤ s₀.c.capacity.toNat) :
    Receiving s₀ (bytes ++ rx) (pullPhase now rx s) where
  inv := h.inv.pullPhase now rx
  state := by rw [pullPhase_state, h.state]
  capacity := by rw [pullPhase_capacity, h.capacity]
  pending := by rw [pullPhase_pendingReceiver, h.pending]
  connected := by rw [pullPhase_connected, h.connected]
  size := by rw [pullPhase_expectedDataSize, h.size]
  checksum := by rw [pullPhase_expectedChecksum, h.checksum]
  cfg := by rw [pullPhase_cfg, h.cfg]
  queue := by rw [pullPhase_bus]; rfl
  stored := by rw [(pullPhase_shown now rx s h.inv.cursor_le).stored, h.frameAfter hfits]

/-- A chunk request moves the request mark alone (42_stream_receiver.md R173). -/
theorem Receiving.chunkAsked (h : Receiving s₀ bytes s) (hdue : s.c.reqMark < s.c.capacity) :
    Receiving s₀ bytes (advanceReqMark (emitRequestFrom Config.chunkSize s)) :=
  { h with
    inv := h.inv.pollEnd (now := 0#32) (st := .ok) (.chunkAsked h.state hdue)
    stored := by
      rw [← h.stored]
      exact bytesFrom_congr _ _ _ fun k _ _ => SameBytes.rxbuf_of rfl rfl k }

/-- An arrival keeps the reception within its liveness timeout, whatever that is. -/
theorem Receiving.live (h : Receiving s₀ bytes s) (hrx : rx ≠ []) :
    (sinceLastByte now rx s).toNat ≤ s.c.timeoutPeriod.toNat := by
  rw [sinceLastByte_of_pulled (by rwa [pulledByController_of_empty h.queue])]
  exact Nat.zero_le _

/-- An arrival that leaves the buffer incomplete goes on with the reception. -/
theorem Receiving.poll_incomplete (now : Word32) (st : Status) (h : Receiving s₀ bytes s)
    (hrx : rx ≠ []) (hpart : (bytes ++ rx).length < s₀.c.capacity.toNat) :
    ∃ t, exec (.cUpdate now rx st) s = .next t ∧ Receiving s₀ (bytes ++ rx) t := by
  have hincomplete : ¬ frameFull rx s := by
    rw [frameFull, h.frameAfter hpart.le, h.capacity]
    exact hpart.ne
  refine ⟨_, exec_cUpdate_receiving h.inv.cursor_le h.state (h.live hrx) hincomplete, ?_⟩
  have hpulled := h.pullPhase now hpart.le
  split
  case isTrue hdue =>
    simp only [chunkRequestDue, Bool.and_eq_true, decide_eq_true_eq] at hdue
    exact hpulled.chunkAsked hdue.2
  case isFalse => exact hpulled

/-- The end of the transfer that `s₀` begins, once its buffer has filled with `bytes`. -/
structure TransferEnded (s₀ : State) (cb : Handle) (bytes : List Byte) (t : State) : Prop where
  state : t.c.state = .idle
  pending : t.c.pendingReceiver = none
  capacity : t.c.capacity = 0#17
  connected : t.c.connected = s₀.c.connected
  out : t.out = [completionEvent s₀ cb (bytes.take s₀.c.expectedDataSize.toNat) bytes]

/-- The arrival that fills the buffer ends the transfer. -/
theorem Receiving.poll_last (now : Word32) (st : Status) (h : Receiving s₀ bytes s)
    (hpending : s₀.c.pendingReceiver = some cb) (hrx : rx ≠ [])
    (hlast : (bytes ++ rx).length = s₀.c.capacity.toNat) :
    ∃ t, exec (.cUpdate now rx st) s = .next t ∧ TransferEnded s₀ cb (bytes ++ rx) t := by
  have hframe := h.frameAfter hlast.le
  have hfull : frameFull rx s := by
    rw [frameFull, hframe, h.capacity]
    exact hlast
  have hpulled := h.pullPhase now hlast.le
  have hexec := exec_cUpdate_transfer (st := st) h.inv h.state (h.live (now := now) hrx) hfull
  rw [completeTransfer_of_pending _ _ (hpulled.pending.trans hpending), hframe, h.size] at hexec
  refine ⟨_, hexec, rfl, rfl, rfl, hpulled.connected, ?out⟩
  rw [endTransfer_out, emit_out, pullPhase_out, List.nil_append, completionEvent, completionEvent,
    hpulled.cfg, hpulled.checksum, hpulled.size, hpulled.capacity]

/-- The arrivals of a padded buffer, however cut, end its transfer with the last of them. -/
theorem Receiving.controllerPolls (polls : List (Word32 × List Byte))
    (h : Receiving s₀ bytes s) (hpending : s₀.c.pendingReceiver = some cb)
    (hpart : bytes.length < s₀.c.capacity.toNat) (harrivals : ∀ q ∈ polls, q.2 ≠ [])
    (htotal : (bytes ++ (polls.map Prod.snd).flatten).length = s₀.c.capacity.toNat) :
    ∃ t, controllerPolls polls s = .next t ∧
      TransferEnded s₀ cb (bytes ++ (polls.map Prod.snd).flatten) t := by
  induction polls generalizing s bytes with
  | nil =>
    rw [List.map_nil, List.flatten_nil, List.append_nil] at htotal
    omega
  | cons q rest ih =>
    obtain ⟨now, rx⟩ := q
    obtain ⟨(hrx : rx ≠ []), hrest⟩ := List.forall_mem_cons.1 harrivals
    simp only [List.map_cons, List.flatten_cons, ← List.append_assoc] at htotal ⊢
    rw [List.length_append] at htotal
    by_cases hlast : (bytes ++ rx).length = s₀.c.capacity.toNat
    case pos =>
      have hflat : (rest.map Prod.snd).flatten = [] := List.eq_nil_of_length_eq_zero (by omega)
      have hnone : rest = [] := List.eq_nil_iff_forall_not_mem.2 fun q hq =>
        hrest q hq (List.flatten_eq_nil_iff.1 hflat _ (List.mem_map_of_mem hq))
      obtain ⟨t, hexec, hended⟩ := h.poll_last now .ok hpending hrx hlast
      refine ⟨t, ?_, by rwa [hflat, List.append_nil]⟩
      rw [hnone, Machine.controllerPolls, hexec]
      rfl
    case neg =>
      obtain ⟨t, hexec, hnext⟩ := h.poll_incomplete now .ok hrx (by omega)
      obtain ⟨u, hpolls, hended⟩ :=
        ih hnext (by omega) hrest (by rw [List.length_append]; exact htotal)
      refine ⟨u, ?_, hended⟩
      rw [Machine.controllerPolls, hexec]
      exact hpolls

end

/-- Settles O54, from the reception with nothing stored yet. -/
theorem pollsDeliverTheTransfer : Obligations.PollsDeliverTheTransfer := by
  intro s polls cb h hstate hempty hqueue hpending harrivals htotal
  have hstart : Receiving s [] s :=
    ⟨h, hstate, rfl, rfl, rfl, rfl, rfl, rfl, hqueue, storedBytes_of_empty hempty⟩
  have hpositive : 0 < s.c.capacity.toNat := by
    obtain ⟨hcap, hsize, -⟩ := h.receiving hstate
    have hpad := pad32_toNat s.c.expectedDataSize
    have hne : s.c.expectedDataSize.toNat ≠ 0 := fun hzero =>
      hsize (BitVec.eq_of_toNat_eq hzero)
    rw [hcap]
    omega
  obtain ⟨t, hpolls, hended⟩ := hstart.controllerPolls polls hpending hpositive harrivals htotal
  exact ⟨t, hpolls, hended.state, hended.pending, hended.capacity, hended.connected,
    hended.out.trans (apply_ite (fun e : Event => [e]) _ _ _)⟩

/-! ### Discovery -/

section
variable {s t : State}

theorem chunkedSend_idle (hstate : s.p.state = .idle) : chunkedSend s = .next s := by
  simp only [chunkedSend, hstate]

/-- The poll of an Idle peripheral that finds a lone Ping at its port answers it and does no more
(43_peripheral.md R195). -/
theorem exec_pUpdate_lonePing {rx : List Byte} (hstate : s.p.state = .idle)
    (hping : pulledByPeripheral s rx = encodePing) :
    exec (.pUpdate rx) s = .next
      (emitSend (encodePingResponse s.p.peripheralType s.p.peripheralVersion)
        (drainPeripheral (arriveAtPeripheral rx s.start))) := by
  show chunkedSend (detectPing (pulledByPeripheral s rx) _) = _
  rw [hping, detectPing_eq, if_pos (show encodePing = [0xA0#8] from rfl)]
  exact chunkedSend_idle hstate

/-- Deliveries towards the controller touch no agent and no queue of the other direction. -/
theorem deliveries_frame (n : Nat) (h : deliveries n s = .next t) :
    AgentsKept s t ∧ t.bus.c2pWire = s.bus.c2pWire ∧ t.bus.pRx = s.bus.pRx := by
  induction n generalizing s with
  | zero =>
    cases h
    exact ⟨.of rfl rfl rfl rfl rfl rfl, rfl, rfl⟩
  | succ n ih =>
    cases hwire : s.bus.p2cWire with
    | nil =>
      rw [deliveries, execBus_deliverP2C_nil hwire] at h
      cases h
    | cons b rest =>
      rw [deliveries_succ n hwire] at h
      obtain ⟨⟨hctrl, hperiph, hreg⟩, hqueues⟩ := ih h
      exact ⟨⟨.trans (.of rfl rfl rfl rfl) hctrl, .trans (.of rfl rfl rfl rfl) hperiph, hreg⟩,
        hqueues⟩

/-- The state once the Ping on the wire has reached the peripheral's port. -/
def State.pingDelivered (s : State) : State :=
  arriveAtPeripheral encodePing (setC2PWire [] s.start)

/-- The state once the peripheral's poll has answered that Ping. -/
def State.pingAnswered (s : State) : State :=
  emitSend (encodePingResponse s.p.peripheralType s.p.peripheralVersion)
    (drainPeripheral (arriveAtPeripheral [] s.pingDelivered.start))

theorem execBus_deliverC2P_ping (hc2p : s.bus.c2pWire = encodePing) :
    execBus .deliverC2P s = .next s.pingDelivered :=
  execBus_deliverC2P_cons hc2p

theorem exec_pUpdate_pingDelivered (hstate : s.p.state = .idle) (hpRx : s.bus.pRx = []) :
    exec (.pUpdate []) s.pingDelivered = .next s.pingAnswered :=
  exec_pUpdate_lonePing hstate (by simp [State.pingDelivered, pulledByPeripheral, hpRx])

theorem pingAnswered_p2cWire (hp2c : s.bus.p2cWire = []) : s.pingAnswered.bus.p2cWire =
    encodePingResponse s.p.peripheralType s.p.peripheralVersion := by
  simp [State.pingAnswered, State.pingDelivered, hp2c]

/-- The peripheral's half of a discovery, whatever follows it: a Ping on the wire comes back as the
seven bytes of the PingResponse at the controller's port. -/
theorem ping_comes_back (k : State → Host.Outcome State Fault Refusal)
    (hstate : s.p.state = .idle) (hc2p : s.bus.c2pWire = encodePing) (hp2c : s.bus.p2cWire = [])
    (hcRx : s.bus.cRx = []) (hpRx : s.bus.pRx = []) :
    ∃ t, andThen (execBus .deliverC2P s) (fun s₂ => andThen (exec (.pUpdate []) s₂) fun s₃ =>
        andThen (deliveries 7 s₃) k) = k t ∧
      t.c = s.c ∧ t.p = s.p ∧ t.cfg = s.cfg ∧
      t.bus.cRx = encodePingResponse s.p.peripheralType s.p.peripheralVersion ∧
      t.bus.c2pWire = [] ∧ t.bus.p2cWire = [] ∧ t.bus.pRx = [] := by
  have hwire := pingAnswered_p2cWire hp2c
  obtain ⟨t, hrun, hqueue, hleft, -, hc, hp⟩ :=
    deliveriesKeepTheOrder 7 s.pingAnswered (by rw [hwire]; exact Nat.le_refl 7)
  obtain ⟨⟨⟨-, -, -, hcfg, -⟩, -⟩, hc2p', hpRx'⟩ := deliveries_frame 7 hrun
  rw [hwire] at hqueue hleft
  refine ⟨t, ?run, hc, hp, hcfg, ?queue, hc2p', hleft, hpRx'⟩
  case run =>
    rw [execBus_deliverC2P_ping hc2p, andThen, exec_pUpdate_pingDelivered hstate hpRx, andThen,
      hrun, andThen]
  case queue =>
    have hold : s.pingAnswered.bus.cRx = [] := hcRx
    rw [hqueue, hold, List.nil_append]
    rfl

/-- The controller's half: a PingResponse at its port connects it. -/
theorem pingResponse_connects (now : Word32) {ty : Word32} {v : Word16} (h : CtrlInv s)
    (hstate : s.c.state = .awaitingPingResponse) (hempty : s.c.dataLoc = 0#17)
    (hqueue : s.bus.cRx = encodePingResponse ty v) (htype : ty ≠ 0#32) :
    ∃ t, exec (.cUpdate now [] .ok) s = .next t ∧ t.c.state = .idle ∧ t.c.connected = true ∧
      t.c.deviceType = ty ∧ t.c.deviceVersion = v ∧ t.c.lastPingMs = now ∧ t.p = s.p ∧
      t.bus = drainedBus s [] := by
  have hpulled : pulledByController s [] = encodePingResponse ty v := by
    rw [pulledByController, hqueue, List.append_nil]
  have hcap : s.c.capacity.toNat = (encodePingResponse ty v).length := h.ping_capacity hstate
  have hframe : frameAfter [] s = encodePingResponse ty v := by
    rw [frameAfter_of_fits, storedBytes_of_empty hempty, hpulled, List.nil_append]
    rw [storedBytes_of_empty hempty, hpulled, hcap, List.nil_append]
  have hlive : (sinceLastByte now [] s).toNat ≤ s.c.timeoutPeriod.toNat := by
    rw [sinceLastByte_of_pulled (by rw [hpulled]; exact List.cons_ne_nil _ _)]
    exact Nat.zero_le _
  have hrecord := decodePingResponse_encodePingResponse ty v
  rw [← hframe] at hrecord
  obtain ⟨t, hexec, -, hc, -, hbus, -, -, hp, -⟩ :=
    validPingResponseConnects s now [] .ok h hstate hlive (by rw [frameFull, hframe, hcap])
      (by rw [hrecord]; exact htype)
  rw [hrecord] at hc
  have hregister {α : Type} (f : Ctrl → α) := congrArg f hc
  exact ⟨t, hexec, hregister Ctrl.state, hregister Ctrl.connected, hregister Ctrl.deviceType,
    hregister Ctrl.deviceVersion, hregister Ctrl.lastPingMs, hp, hbus⟩

end

/-- Settles O56: the Ping of R137, the peripheral's half and the controller's half in a row. -/
theorem discoveryConnectsToThePeripheral : Obligations.DiscoveryConnectsToThePeripheral := by
  intro s now now' h hstate hpidle hnone hc2p hp2c hcRx hpRx htype hsince hdue
  have hsince' : 10 < (sinceLastByte now [] s).toNat := by
    rw [sinceLastByte, stampAfter, pulledByController_of_empty hcRx, if_pos rfl]
    exact hsince
  obtain ⟨s₁, hping, -, hc₁, hbus₁, -, -, hp₁, -⟩ :=
    idlePollSendsADuePing s now [] .ok h hstate hsince' hnone hdue
  have hinv : CtrlInv s₁ := h.controllerEnd (controllerEnd_of_exec rfl hping)
  rw [if_neg (by decide)] at hc₁
  rw [if_pos rfl, hc2p] at hbus₁
  obtain ⟨s₄, hanswer, hc₄, hp₄, hcfg₄, hcRx₄, hc2p₄, hp2c₄, hpRx₄⟩ :=
    ping_comes_back (exec (.cUpdate now' [] .ok)) (s := s₁) (by rw [hp₁, hpidle])
      (by rw [hbus₁]; rfl) (by rw [hbus₁, hp2c]) (by rw [hbus₁, hcRx]) (by rw [hbus₁, hpRx])
  rw [hp₁] at hp₄ hcRx₄
  obtain ⟨t, hconnect, hidle, hconnected, hty, hv, hstamp, hp, hbus⟩ :=
    pingResponse_connects now' (hinv.congr hc₄ hcfg₄) (by rw [hc₄, hc₁]) (by rw [hc₄, hc₁])
      hcRx₄ htype
  refine ⟨t, ?run, hidle, hconnected, hty, hv, hstamp, hp.trans hp₄, ?_, ?_, ?_, ?_⟩
  case run =>
    rw [hping, andThen, hanswer]
    exact hconnect
  all_goals rw [hbus]
  · exact hc2p₄
  · exact hp2c₄
  · rfl
  · exact hpRx₄

end Sys2Proof.Machine

/-! Proofs of O35, O36, O37, O41, O42 and O45. A full receive buffer ends its transfer with the one
completion event, whichever way the checksum falls; no other step makes that event. For the bound
over runs, each completion uses up a request that the trace still held or that was pending. -/

namespace Sys2Proof.Machine

/-! ### The padded size -/

/-- Settles O45, by the padded size as a number. -/
theorem paddedSizeIsTheLeastMultiple : Obligations.PaddedSizeIsTheLeastMultiple := by
  intro d hd
  have hpositive : d.toNat ≠ 0 := fun hzero => hd (BitVec.eq_of_toNat_eq hzero)
  have hlt := d.isLt
  rw [pad32_toNat]
  refine ⟨?multiple, ?holds, fun m hm hle => ?least, rfl, ?lower, ?upper⟩ <;> omega

/-! ### A full receive buffer -/

section
variable {now : Word32} {rx : List Byte} {st : Status} {s t : State} {cb : Handle}

/-- The pull moves no register that the choice of the completion event depends on. -/
theorem completionEvent_pullPhase (payload buffer : List Byte) :
    completionEvent (pullPhase now rx s) cb payload buffer =
      completionEvent s cb payload buffer := by
  simp only [completionEvent, pullPhase_cfg, pullPhase_expectedChecksum,
    pullPhase_expectedDataSize, pullPhase_capacity]

/-- What the poll that finds the buffer full does, match and mismatch alike
(42_stream_receiver.md R174 to R178). -/
theorem exists_next_of_fullBuffer (st : Status) (h : CtrlInv s)
    (hstate : s.c.state = .receivingData) (hpending : s.c.pendingReceiver = some cb)
    (hlive : (sinceLastByte now rx s).toNat ≤ s.c.timeoutPeriod.toNat) (hfull : frameFull rx s) :
    ∃ t, exec (.cUpdate now rx st) s = .next t ∧
      t.out = [completionEvent s cb ((frameAfter rx s).take s.c.expectedDataSize.toNat)
        (frameAfter rx s)] ∧
      t.c = { s.c with
        lastBytesReceivedMs := stampAfter now rx s
        capacity := 0#17, dataLoc := 0#17, rxbuf := [], pendingReceiver := none
        state := .idle } ∧
      t.bus = drainedBus s rx ∧ t.ret = .none ∧ PeripheralSide s t := by
  have hpending' : (pullPhase now rx s).c.pendingReceiver = some cb := by
    rw [pullPhase_pendingReceiver, hpending]
  have hexec := exec_cUpdate_transfer (st := st) h hstate hlive hfull
  rw [completeTransfer_of_pending _ _ hpending', completionEvent_pullPhase] at hexec
  refine ⟨_, hexec, ?out, ?registers, pullPhase_bus now rx s, pullPhase_ret now rx s,
    exec_cUpdate_peripheralSide hexec⟩
  case out => rw [endTransfer_out, emit_out, pullPhase_out, List.nil_append]
  case registers => rw [endTransfer_c, emit_c, pullPhase_c]

end

/-- Settles O35: on a match the completion event carries the whole buffer. -/
theorem matchingTransferCompletes : Obligations.MatchingTransferCompletes := by
  intro s now rx st cb h hstate hpending hlive hfull hmatch
  have hend := exists_next_of_fullBuffer st h hstate hpending hlive hfull
  rwa [completionEvent, if_pos hmatch] at hend

/-- Settles O36: on a mismatch the completion event carries no buffer. -/
theorem mismatchingTransferFails : Obligations.MismatchingTransferFails := by
  intro s now rx st cb h hstate hpending hlive hfull hmismatch
  have hend := exists_next_of_fullBuffer st h hstate hpending hlive hfull
  rwa [completionEvent, if_neg hmismatch] at hend

/-! ### Chunk requests -/

section
variable {now : Word32} {rx : List Byte} {s : State}

/-- The test of R173 after the pull, where the cursor stands behind the bytes of the frame. -/
theorem chunkRequestDue_pullPhase (hcursor : s.c.dataLoc ≤ s.c.capacity) :
    chunkRequestDue (pullPhase now rx s) = true ↔
      s.c.reqMark.toNat ≤ (frameAfter rx s).length ∧
        s.c.reqMark.toNat < s.c.capacity.toNat := by
  simp only [chunkRequestDue, Bool.and_eq_true, decide_eq_true_eq, BitVec.le_def, BitVec.lt_def,
    pullPhase_reqMark, pullPhase_capacity, (pullPhase_shown now rx s hcursor).cursor]

/-- A request mark below a padded size moves on without wrapping (42_stream_receiver.md R172). -/
theorem toNat_reqMark_advance {mark : Word17} {d : Word16} (hlt : mark.toNat < (pad32 d).toNat) :
    (mark + 32#17).toNat = mark.toNat + 32 := by
  have hd := d.isLt
  have hpad := pad32_toNat d
  rw [BitVec.toNat_add, BitVec.toNat_ofNat]
  omega

end

/-- Settles O37, by the two branches of a poll that leaves the buffer incomplete. -/
theorem chunkRequestsFollowTheMark : Obligations.ChunkRequestsFollowTheMark := by
  intro s now rx st h hstate hlive hpart
  have hexec := exec_cUpdate_receiving (st := st) h.cursor_le hstate hlive hpart
  have hdue := chunkRequestDue_pullPhase (now := now) (rx := rx) h.cursor_le
  split_ifs at hexec with hasked
  case pos =>
    have hmark := hdue.1 hasked
    obtain ⟨hcap, -⟩ := h.receiving hstate
    refine ⟨_, hexec, pullShown_of_pullPhase h rfl rfl (pullPhase_free now rx s) rfl,
      pullPhase_ret now rx s, pullPhase_free now rx s, exec_cUpdate_peripheralSide hexec, ?_⟩
    rw [if_pos hmark]
    refine ⟨?out, ?mark, ?registers, ?bus⟩
    case out =>
      rw [advanceReqMark_out, emitRequestFrom_out, pullPhase_out, pullPhase_cfg, List.nil_append]
      rfl
    case mark =>
      rw [advanceReqMark_c, emitRequestFrom_c, pullPhase_reqMark]
      exact toNat_reqMark_advance (by rw [← hcap]; exact hmark.2)
    case registers =>
      rw [advanceReqMark_c, emitRequestFrom_c, ← pullPhase_unpulled now rx s]
      rfl
    case bus =>
      rw [advanceReqMark_bus, emitRequestFrom_bus, pullPhase_bus]
      rfl
  case neg =>
    refine ⟨_, hexec, pullPhase_shown now rx s h.cursor_le, pullPhase_ret now rx s,
      pullPhase_free now rx s, pullPhase_peripheralSide now rx s, ?_⟩
    rw [if_neg (mt hdue.2 hasked)]
    exact ⟨pullPhase_out now rx s, pullPhase_unpulled now rx s, pullPhase_bus now rx s⟩

/-! ### Outputs without a completion -/

/-- No `Complete` among a list of output events. -/
def NoCompletion (out : List Event) : Prop :=
  ∀ e ∈ out, e.isComplete = false

section
variable {now : Word32} {st : Status} {s t : State} {out : List Event}

theorem noCompletion_nil : NoCompletion [] := fun _ he => nomatch he

theorem noCompletion_of_empty (h : out = []) : NoCompletion out := h ▸ noCompletion_nil

theorem NoCompletion.append_singleton (h : NoCompletion out) {e : Event}
    (he : e.isComplete = false) : NoCompletion (out ++ [e]) :=
  List.forall_mem_append.2 ⟨h, List.forall_mem_singleton.2 he⟩

theorem NoCompletion.filter_eq_nil (h : NoCompletion out) : out.filter Event.isComplete = [] :=
  List.filter_eq_nil_iff.2 fun e he => by simp [h e he]

theorem NoCompletion.complete_not_mem (h : NoCompletion out) (cb : Handle)
    (b : Option (List Byte)) (d : Word16) (p : Word17) : Event.complete cb b d p ∉ out :=
  fun hmem => nomatch h _ hmem

/-- A payload's hand-off and its chunks are sends (43_peripheral.md R191, R198, R199). -/
theorem SendEnd.noCompletion (hend : SendEnd s t) (hs : NoCompletion s.out) :
    NoCompletion t.out := by
  cases hend with
  | unchanged | released => exact hs
  | loaded | chunkSent | tailSent => exact hs.append_singleton rfl

theorem noCompletion_detectPing (pulled : List Byte) (hs : NoCompletion s.out) :
    NoCompletion (detectPing pulled s).out := by
  rw [detectPing_eq]
  split
  · exact hs.append_singleton rfl
  · exact hs

/-- The only next state of an operation that tests the size of its operands. -/
theorem eq_of_ite_next {c : Prop} [Decidable c] {u : State} {r : Refusal}
    (h : (if c then (.next u : Host.Outcome State Fault Refusal) else .refused r) = .next t) :
    u = t := by
  split at h <;> cases h
  rfl

theorem noCompletion_of_exec {i : Instr} (hi : agentOf i ≠ .controller)
    (h : exec i s = .next t) : NoCompletion t.out := by
  cases i with
  | ping | pingResp _ _ | data _ | encodePing | encodePingResponse _ _ | pNew _ _ =>
    cases h
    exact noCompletion_nil
  | sos4 _ _ | sos16 _ _ | decodePing _ | decodePingResponse _ | encodeStartOfStream _ _
  | decodeStartOfStream _ =>
    obtain rfl := eq_of_ite_next h
    exact noCompletion_nil
  | pUpdate rx =>
    exact (sendEnd_of_chunkedSend h).noCompletion (noCompletion_detectPing _ noCompletion_nil)
  | pOnRequest bytes n => exact (sendEnd_of_onRequest h).noCompletion noCompletion_nil
  | cUpdate _ _ _ | cNew | cRequestData _ | cSetTimeoutPeriod _ | cConnected | cGetState
  | cDeviceType | cDeviceVersion => exact absurd rfl hi

theorem noCompletion_of_execBus {b : BusStep} (h : execBus b s = .next t) :
    NoCompletion t.out := by
  cases b with
  | deliverC2P =>
    cases hwire : s.bus.c2pWire with
    | nil => rw [execBus_deliverC2P_nil hwire] at h; cases h
    | cons b rest => rw [execBus_deliverC2P_cons hwire] at h; cases h; exact noCompletion_nil
  | deliverP2C =>
    cases hwire : s.bus.p2cWire with
    | nil => rw [execBus_deliverP2C_nil hwire] at h; cases h
    | cons b rest => rw [execBus_deliverP2C_cons hwire] at h; cases h; exact noCompletion_nil
  | fireRequest bytes n =>
    by_cases hon : 0 < s.bus.reqEvents ∧ s.bus.onRequestRegistered = true
    · rw [execBus_fireRequest_enabled bytes n hon] at h
      exact noCompletion_of_exec (by simp [agentOf]) h
    · rw [execBus_fireRequest_disabled bytes n hon] at h
      cases h
  | fill b =>
    obtain rfl := eq_of_ite_next h
    exact noCompletion_nil

theorem noCompletion_of_rawBytesArrive {f : Format} {bytes : List Byte}
    (h : rawBytesArrive f bytes s = .next t) : NoCompletion t.out := by
  rw [rawBytesArrive_eq] at h
  cases h
  exact noCompletion_of_empty (by simp)

theorem noCompletion_idleArm (now : Word32) (st : Status) (hs : NoCompletion s.out) :
    NoCompletion (idleArm now st s).out := by
  cases hpending : s.c.pendingReceiver with
  | some cb =>
    rw [idleArm_of_pending now st hpending]
    exact hs.append_singleton rfl
  | none =>
    by_cases hdue : heartbeatDue now s = true
    · have hwrite : NoCompletion (emitWrite encodePing st s).out := by
        rw [emitWrite_out]
        exact hs.append_singleton rfl
      rw [idleArm_of_heartbeatDue st hpending hdue]
      split <;> exact hwrite
    · rwa [idleArm_of_nothing_due st hpending hdue]

theorem noCompletion_acceptPingResponse (now : Word32) (pr : PingResponseRecord)
    (hs : NoCompletion s.out) : NoCompletion (acceptPingResponse now pr s).out := by
  unfold acceptPingResponse
  split <;> exact hs

theorem noCompletion_acceptStartOfStream (header : StartOfStreamRecord)
    (hs : NoCompletion s.out) : NoCompletion (acceptStartOfStream header s).out := by
  unfold acceptStartOfStream
  split <;> exact hs

/-! ### The step that completes -/

/-- The phases of a poll from `s` to `t` end the transfer of the receiver `cb` with its one event
(42_stream_receiver.md R178, R179). -/
structure Completes (cb : Handle) (s t : State) : Prop where
  receiving : s.c.state = .receivingData
  pending : s.c.pendingReceiver = some cb
  idle : t.c.state = .idle
  dropped : t.c.pendingReceiver = none
  event : ∃ b d p, t.out = [.complete cb b d p]

theorem completionEvent_eq_complete (s : State) (cb : Handle) (payload buffer : List Byte) :
    ∃ b d p, completionEvent s cb payload buffer = .complete cb b d p := by
  unfold completionEvent
  split <;> exact ⟨_, _, _, rfl⟩

theorem completes_of_completeTransfer {cb : Handle} (payload buffer : List Byte)
    (hstate : s.c.state = .receivingData) (hpending : s.c.pendingReceiver = some cb)
    (hs : s.out = []) : Completes cb s (completeTransfer payload buffer s) := by
  obtain ⟨b, d, p, hevent⟩ := completionEvent_eq_complete s cb payload buffer
  rw [completeTransfer_of_pending payload buffer hpending]
  refine ⟨hstate, hpending, rfl, rfl, b, d, p, ?event⟩
  rw [endTransfer_out, emit_out, hs, List.nil_append, hevent]

/-- Without a pending receiver there is nobody to complete to (assumption 9). -/
theorem noCompletion_completeTransfer (payload buffer : List Byte)
    (hnone : s.c.pendingReceiver = none) (hs : NoCompletion s.out) :
    NoCompletion (completeTransfer payload buffer s).out := by
  have hquiet (b : Option (List Byte)) (d : Word16) (n : Word17) :
      NoCompletion (emitComplete b d n s).out := by
    rw [emitComplete_out, hnone]
    exact hs
  unfold completeTransfer
  split <;> exact hquiet _ _ _

theorem completes_or_noCompletion_of_afterPull (h : afterPull now st s = .next t)
    (hs : s.out = []) : NoCompletion t.out ∨ ∃ cb, Completes cb s t := by
  have hquiet : NoCompletion s.out := noCompletion_of_empty hs
  obtain rfl | ⟨-, rfl⟩ | ⟨-, rfl⟩ | ⟨-, -, rfl⟩ | ⟨-, -, rfl⟩ | ⟨hstate, -, rfl⟩ |
    ⟨-, -, -, rfl⟩ := afterPull_next h
  · exact .inl hquiet
  · exact .inl hquiet
  · exact .inl (noCompletion_idleArm now st hquiet)
  · exact .inl (noCompletion_acceptPingResponse now _ hquiet)
  · exact .inl (noCompletion_acceptStartOfStream _ hquiet)
  · cases hpending : s.c.pendingReceiver with
    | none => exact .inl (noCompletion_completeTransfer _ _ hpending hquiet)
    | some cb => exact .inr ⟨cb, completes_of_completeTransfer _ _ hstate hpending hs⟩
  · exact .inl (hquiet.append_singleton rfl)

/-- A step makes no completion, or is the poll that ends a transfer. -/
theorem completes_or_noCompletion_of_step (h : step s = .next t) :
    NoCompletion t.out ∨ ∃ cb now rx st rest,
      s.inputs = .op (.cUpdate now rx st) :: rest ∧ Completes cb s t := by
  cases hinputs : s.inputs with
  | nil =>
    rw [step_nil hinputs] at h
    cases h
    exact .inl noCompletion_nil
  | cons item rest =>
    cases item with
    | wire f bytes =>
      obtain ⟨i, hdecode, hstep⟩ | hstep := step_wire hinputs <;> rw [hstep] at h
      · exact .inl (noCompletion_of_exec (by simp [agentOf_of_decode hdecode]) h)
      · exact .inl (noCompletion_of_rawBytesArrive h)
    | bus b =>
      rw [step_bus hinputs] at h
      exact .inl (noCompletion_of_execBus h)
    | op i =>
      rw [step_op hinputs] at h
      by_cases hi : agentOf i = .controller
      case neg => exact .inl (noCompletion_of_exec hi h)
      cases controllerEnd_of_exec hi h with
      | constructed | requested | timeoutSet | registerRead => exact .inl noCompletion_nil
      | poll now rx st t =>
        refine (completes_or_noCompletion_of_afterPull h (pullPhase_out now rx _)).imp_right ?_
        rintro ⟨cb, hreceiving, hpending, hidle, hdropped, hevent⟩
        rw [pullPhase_state] at hreceiving
        rw [pullPhase_pendingReceiver] at hpending
        exact ⟨cb, now, rx, st, rest, rfl, hreceiving, hpending, hidle, hdropped, hevent⟩

end

/-- Settles O41: the one event of a completing step is the one that was found. -/
theorem completeEndsItsRequest : Obligations.CompleteEndsItsRequest := by
  intro s t cb b d p hstep hmem
  obtain hquiet | ⟨cb', now, rx, st, rest, hinputs, hend⟩ :=
    completes_or_noCompletion_of_step hstep
  · exact absurd hmem (hquiet.complete_not_mem cb b d p)
  · obtain ⟨b', d', p', hout⟩ := hend.event
    rw [hout, List.mem_singleton] at hmem
    cases hmem
    exact ⟨⟨now, rx, st, rest, hinputs⟩, hend.receiving, hend.pending, hend.idle, hend.dropped,
      hout⟩

/-! ### Completions over a run -/

/-- The completions that a state can still come to: one for each request that its trace holds, and
one for the request that is pending. -/
def openRequests (s : State) : Nat :=
  (s.inputs.filter isRequest).length + (if s.c.pendingReceiver = none then 0 else 1)

section
variable {now : Word32} {st : Status} {s t : State}

theorem StepEnd.inputs (h : StepEnd s t) : t.inputs = s.inputs.tail := by
  obtain ⟨-, -, -, -, hinputs⟩ | ⟨i, rest, -, hend⟩ := h.controllerSide_or
  · exact hinputs
  · obtain ⟨-, -, -, -, hinputs⟩ := hend.peripheralSide
    exact hinputs

/-- No end of a poll sets a receiver (10_state.md R24). -/
theorem PollEnd.pendingReceiver (h : PollEnd now st s t) :
    t.c.pendingReceiver = s.c.pendingReceiver ∨ t.c.pendingReceiver = none := by
  cases h with
  | unchanged | headerAsked | identified | headerTaken | chunkAsked => exact .inl rfl
  | pingTimedOut | pinged => exact .inl (by simp [raise_transport])
  | silence | malformed | completed | mismatched => exact .inr rfl

/-- A receiver that a step has pending was pending before, or the step is its request. -/
theorem pendingReceiver_of_step (h : step s = .next t) :
    t.c.pendingReceiver = s.c.pendingReceiver ∨ t.c.pendingReceiver = none ∨
      ∃ cb rest, s.inputs = .op (.cRequestData cb) :: rest := by
  obtain ⟨hc, -⟩ | ⟨i, rest, hinputs, hend⟩ := (stepEnd_of_step h).controllerSide_or
  · exact .inl (by rw [hc, fetched_c])
  cases hend with
  | poll now rx st t hend =>
    obtain hkept | hnone := hend.pendingReceiver
    · exact .inl (by rw [hkept, pullPhase_pendingReceiver, fetched_c])
    · exact .inr (.inl hnone)
  | constructed => exact .inr (.inl rfl)
  | requested cb => exact .inr (.inr ⟨cb, rest, hinputs⟩)
  | timeoutSet | registerRead => exact .inl rfl

theorem length_requests_tail_le (inputs : List Stimulus) :
    (inputs.tail.filter isRequest).length ≤ (inputs.filter isRequest).length :=
  ((List.tail_sublist inputs).filter isRequest).length_le

/-- A request that becomes pending has left the trace. -/
theorem openRequests_le_of_step (h : step s = .next t) : openRequests t ≤ openRequests s := by
  have htail := length_requests_tail_le s.inputs
  rw [openRequests, openRequests, (stepEnd_of_step h).inputs]
  obtain hkept | hnone | ⟨cb, rest, hinputs⟩ := pendingReceiver_of_step h
  · rw [hkept]
    omega
  · rw [if_pos hnone]
    omega
  · have hrequest : (s.inputs.filter isRequest).length = (rest.filter isRequest).length + 1 := by
      rw [hinputs]
      rfl
    rw [hrequest, hinputs, List.tail_cons]
    split <;> omega

theorem openRequests_lt_of_completes {cb : Handle} (h : step s = .next t)
    (hend : Completes cb s t) : openRequests t < openRequests s := by
  have htail := length_requests_tail_le s.inputs
  rw [openRequests, openRequests, (stepEnd_of_step h).inputs, if_pos hend.dropped,
    if_neg (by simp [hend.pending])]
  omega

/-- Each completion of a step uses up an open request. -/
theorem completions_add_openRequests_le (h : step s = .next t) :
    (t.out.filter Event.isComplete).length + openRequests t ≤ openRequests s := by
  obtain hquiet | ⟨cb, -, -, -, -, -, hend⟩ := completes_or_noCompletion_of_step h
  · rw [hquiet.filter_eq_nil, List.length_nil, Nat.zero_add]
    exact openRequests_le_of_step h
  · obtain ⟨b, d, p, hout⟩ := hend.event
    have hlt := openRequests_lt_of_completes h hend
    have hone : (t.out.filter Event.isComplete).length ≤ 1 := by
      rw [hout]
      exact List.length_filter_le _ _
    omega

end

/-- Settles O42, by induction on the number of steps. -/
theorem atMostOneCompletePerRequest : Obligations.AtMostOneCompletePerRequest := by
  intro n
  show ∀ s, ((runEvents n s).filter Event.isComplete).length ≤ openRequests s
  induction n with
  | zero => exact fun s => Nat.zero_le _
  | succ n ih =>
    intro s
    rw [runEvents]
    split
    case h_1 t hstep =>
      have hrest := ih t
      have hfirst := completions_add_openRequests_le hstep
      rw [List.filter_append, List.length_append]
      omega
    case h_2 => exact Nat.zero_le _
    case h_3 => exact Nat.zero_le _

end Sys2Proof.Machine

/-! Proofs of O48 to O53. A poll of the peripheral sends the answer to a lone Ping and, while a
payload is live, its next chunk, each only if it has bytes; it has one equation in Idle and two in
SendingData. A whole transfer chains the request event and those polls. -/

namespace Sys2Proof.Machine

section
variable {s t : State}

/-! ### Reads of the payload buffer -/

theorem bytesFrom_ne_nil (space : BufSpace) (a n : Nat) (h : 0 < n) :
    s.bytesFrom space a n ≠ [] :=
  List.ne_nil_of_length_pos (by rwa [bytesFrom_length])

theorem bytesFrom_outbuf_congr (a n : Nat) (hbuf : t.p.outbuf = s.p.outbuf)
    (hepoch : t.free.outEpoch = s.free.outEpoch) :
    t.bytesFrom .outbuf a n = s.bytesFrom .outbuf a n :=
  bytesFrom_congr _ a n fun k _ _ => SameBytes.outbuf_of hbuf hepoch k

/-! ### The request event -/

/-- A provider result in its domain begins a transfer with the payload it stands for (R191). -/
theorem exec_pOnRequest_idle {bytes : List Byte} {n : Nat} (hstate : s.p.state = .idle)
    (hmax : n ≤ 65535) (hlen : n ≤ bytes.length) :
    exec (.pOnRequest bytes n) s = .next (setPeriphState .sendingData
      (emitSend (encodeStartOfStream (BitVec.ofNat 16 n)
        (Config.cksum s.cfg.cksumWidth (bytes.take n))) (loadOutbuf (bytes.take n) s.start))) := by
  have hstart : s.start.p.state = .idle := hstate
  have htake : (bytes.take n).length = n := List.length_take_of_le hlen
  have hbegin := beginTransfer_eq s.start (bytes.take n) (by rwa [htake])
  rw [htake] at hbegin
  simp only [exec, execPOnRequest, onRequest, hstart,
    if_pos ((providerInRange_iff bytes n).2 ⟨hmax, hlen⟩)]
  exact hbegin

/-- Outside the domain nothing is begun (R191; 93 U6). -/
theorem exec_pOnRequest_outsideDomain {bytes : List Byte} {n : Nat} (hstate : s.p.state = .idle)
    (hdomain : ¬ (n ≤ 65535 ∧ n ≤ bytes.length)) :
    exec (.pOnRequest bytes n) s = .refused .providerDomain := by
  have hstart : s.start.p.state = .idle := hstate
  simp only [exec, execPOnRequest, onRequest, hstart,
    if_neg (mt (providerInRange_iff bytes n).1 hdomain)]

/-! ### A send that is made only if it has bytes -/

/-- The chunked send and the ping detection put a byte string on the wire, or make no call at all if
it is empty. -/
def sendNonempty (bytes : List Byte) (s : State) : State :=
  if bytes = [] then s else emitSend bytes s

theorem sendNonempty_of_ne {bytes : List Byte} (h : bytes ≠ []) :
    sendNonempty bytes s = emitSend bytes s := if_neg h

@[simp] theorem sendNonempty_nil : sendNonempty [] s = s := rfl

@[simp] theorem sendNonempty_c (b : List Byte) : (sendNonempty b s).c = s.c := by
  rw [sendNonempty]; split <;> rfl
@[simp] theorem sendNonempty_p (b : List Byte) : (sendNonempty b s).p = s.p := by
  rw [sendNonempty]; split <;> rfl
@[simp] theorem sendNonempty_bus (b : List Byte) :
    (sendNonempty b s).bus = { s.bus with p2cWire := s.bus.p2cWire ++ b } := by
  rw [sendNonempty]
  split
  case isTrue hnil => rw [hnil, List.append_nil]
  case isFalse => rfl
@[simp] theorem sendNonempty_cfg (b : List Byte) : (sendNonempty b s).cfg = s.cfg := by
  rw [sendNonempty]; split <;> rfl
@[simp] theorem sendNonempty_inputs (b : List Byte) : (sendNonempty b s).inputs = s.inputs := by
  rw [sendNonempty]; split <;> rfl
@[simp] theorem sendNonempty_out (b : List Byte) :
    (sendNonempty b s).out = s.out ++ if b = [] then [] else [.send b] := by
  rw [sendNonempty]
  split
  case isTrue => rw [List.append_nil]
  case isFalse => rfl
@[simp] theorem sendNonempty_ret (b : List Byte) : (sendNonempty b s).ret = s.ret := by
  rw [sendNonempty]; split <;> rfl
@[simp] theorem sendNonempty_free (b : List Byte) : (sendNonempty b s).free = s.free := by
  rw [sendNonempty]; split <;> rfl

/-! ### The two phases of a poll -/

/-- What the ping detection of a poll answers (R194 to R197). -/
def pingAnswer (rx : List Byte) (s : State) : List Byte :=
  if pulledByPeripheral s rx = [0xA0#8] then
    encodePingResponse s.p.peripheralType s.p.peripheralVersion
  else []

/-- A poll after its pull and its ping detection, before the chunked send. -/
def pingPhase (rx : List Byte) (s : State) : State :=
  sendNonempty (pingAnswer rx s) (drainPeripheral (arriveAtPeripheral rx s.start))

theorem exec_pUpdate (rx : List Byte) (s : State) :
    exec (.pUpdate rx) s = chunkedSend (pingPhase rx s) := by
  show chunkedSend (detectPing (pulledByPeripheral s rx) _) = _
  rw [detectPing_eq, pingPhase, pingAnswer]
  split <;> rfl

@[simp] theorem pingPhase_c (rx : List Byte) : (pingPhase rx s).c = s.c := by simp [pingPhase]
@[simp] theorem pingPhase_p (rx : List Byte) : (pingPhase rx s).p = s.p := by simp [pingPhase]
@[simp] theorem pingPhase_bus (rx : List Byte) : (pingPhase rx s).bus =
    { drainedPeripheralBus s with p2cWire := s.bus.p2cWire ++ pingAnswer rx s } := by
  simp [pingPhase, drainedPeripheralBus]
@[simp] theorem pingPhase_cfg (rx : List Byte) : (pingPhase rx s).cfg = s.cfg := by
  simp [pingPhase]
@[simp] theorem pingPhase_inputs (rx : List Byte) : (pingPhase rx s).inputs = s.inputs := by
  simp [pingPhase]
@[simp] theorem pingPhase_out (rx : List Byte) : (pingPhase rx s).out =
    if pingAnswer rx s = [] then [] else [.send (pingAnswer rx s)] := by simp [pingPhase]
@[simp] theorem pingPhase_ret (rx : List Byte) : (pingPhase rx s).ret = .none := by
  simp [pingPhase]
@[simp] theorem pingPhase_free (rx : List Byte) : (pingPhase rx s).free = s.free := by
  simp [pingPhase]

/-- The ping detection moves no byte of the payload. -/
theorem bytesFrom_pingPhase (rx : List Byte) (a n : Nat) :
    (pingPhase rx s).bytesFrom .outbuf a n = s.bytesFrom .outbuf a n :=
  bytesFrom_outbuf_congr a n (by simp) (by simp)

/-- What the chunked send of a poll sends: at most a chunk of what is unsent (R198 to R200). -/
def nextChunk (s : State) : List Byte :=
  s.bytesFrom .outbuf s.p.sendCursor.toNat (min 32 s.unsent)

/-- A full chunk is inside the payload in every state: the read fits (R198). -/
theorem chunkedSend_chunk (hstate : s.p.state = .sendingData) (hfull : 32 ≤ s.unsent) :
    chunkedSend s = .next (advanceSendCursor (sendNonempty (nextChunk s) s)) := by
  have hfull' : Config.chunkSize ≤ s.unsent := hfull
  have hunsent : s.unsent = s.p.outLen.toNat - s.p.sendCursor.toNat := rfl
  have hfit : s.p.sendCursor.toNat + Config.chunkSize ≤ s.spaceSize .outbuf :=
    show s.p.sendCursor.toNat + 32 ≤ s.p.outLen.toNat by omega
  rw [nextChunk, Nat.min_eq_left hfull, sendNonempty_of_ne (bytesFrom_ne_nil _ _ _ (by decide))]
  simp only [chunkedSend, hstate, if_pos hfull', memRead_inside s _ _ _ hfit, withBytes_ok]
  rfl

/-- The exact tail and nothing at all are one case: the rest is sent if it has bytes, and the
payload is released (R199, R200). -/
theorem chunkedSend_rest (hstate : s.p.state = .sendingData) (hrest : s.unsent < 32) :
    chunkedSend s = .next (releaseOutbuf (sendNonempty (nextChunk s) s)) := by
  have hrest' : ¬ Config.chunkSize ≤ s.unsent := Nat.not_le.2 hrest
  have hunsent : s.unsent = s.p.outLen.toNat - s.p.sendCursor.toNat := rfl
  rw [nextChunk, Nat.min_eq_right hrest.le]
  simp only [chunkedSend, hstate, if_neg hrest']
  split
  case isTrue htail =>
    have hfit : s.p.sendCursor.toNat + s.unsent ≤ s.spaceSize .outbuf := by
      rw [spaceSize_outbuf]
      omega
    rw [memRead_inside s _ _ _ hfit, withBytes_ok,
      sendNonempty_of_ne (bytesFrom_ne_nil _ _ _ htail)]
  case isFalse hnone =>
    rw [Nat.eq_zero_of_not_pos hnone, bytesFrom_zero, sendNonempty_nil]

theorem nextChunk_pingPhase (rx : List Byte) : nextChunk (pingPhase rx s) = nextChunk s := by
  rw [nextChunk, nextChunk, bytesFrom_pingPhase, pingPhase_p, State.unsent, State.unsent,
    pingPhase_p]

/-! ### A poll in each state -/

theorem exec_pUpdate_idle (rx : List Byte) (hstate : s.p.state = .idle) :
    exec (.pUpdate rx) s = .next (pingPhase rx s) := by
  rw [exec_pUpdate]
  exact chunkedSend_idle (by rwa [pingPhase_p])

theorem exec_pUpdate_chunk (rx : List Byte) (hstate : s.p.state = .sendingData)
    (hfull : 32 ≤ s.unsent) : exec (.pUpdate rx) s =
      .next (advanceSendCursor (sendNonempty (nextChunk s) (pingPhase rx s))) := by
  rw [exec_pUpdate, chunkedSend_chunk (by rwa [pingPhase_p])
    (by rwa [State.unsent, pingPhase_p]), nextChunk_pingPhase]

theorem exec_pUpdate_rest (rx : List Byte) (hstate : s.p.state = .sendingData)
    (hrest : s.unsent < 32) : exec (.pUpdate rx) s =
      .next (releaseOutbuf (sendNonempty (nextChunk s) (pingPhase rx s))) := by
  rw [exec_pUpdate, chunkedSend_rest (by rwa [pingPhase_p])
    (by rwa [State.unsent, pingPhase_p]), nextChunk_pingPhase]

theorem exec_pUpdate_controllerSide {rx : List Byte} (hexec : exec (.pUpdate rx) s = .next t) :
    ControllerSide s t :=
  exec_controllerSide (by simp [agentOf]) hexec

end

/-- Settles O48: the header and the wire are read off the transfer's first state, and the payload
reads back from `OUTBUF`. -/
theorem requestEventBeginsATransfer : Obligations.RequestEventBeginsATransfer := by
  intro s bytes n hstate hmax hlen
  have hexec := exec_pOnRequest_idle hstate hmax hlen
  have htake : (bytes.take n).length = n := List.length_take_of_le hlen
  refine ⟨_, hexec, rfl, ?size, rfl, ?payload, rfl, rfl, rfl, rfl, rfl,
    exec_controllerSide (by simp [agentOf]) hexec⟩
  case size =>
    show (BitVec.ofNat 16 (bytes.take n).length).toNat = n
    rw [htake]
    exact Nat.mod_eq_of_lt (Nat.lt_succ_of_le hmax)
  case payload =>
    rw [bytesFrom_outbuf_congr (s := loadOutbuf (bytes.take n) s.start) 0 n (by rfl) (by rfl),
      bytesFrom_loadOutbuf _ _ _ _ (by omega), List.drop_zero, List.take_of_length_le htake.le]

/-- Settles O51: in Idle a poll is its ping detection. -/
theorem idlePeripheralAnswersALonePing : Obligations.IdlePeripheralAnswersALonePing := by
  intro s rx hstate
  refine ⟨_, exec_pUpdate_idle rx hstate, pingPhase_c rx, pingPhase_p rx, pingPhase_free rx,
    ⟨pingPhase_cfg rx, pingPhase_inputs rx⟩,
    ⟨.rxbuf_of (by simp) (by simp), .outbuf_of (by simp) (by simp)⟩, pingPhase_ret rx, ?_⟩
  rw [pingPhase_out, pingPhase_bus, pingAnswer]
  split
  case isTrue => exact ⟨rfl, rfl⟩
  case isFalse => exact ⟨rfl, by rw [List.append_nil]; rfl⟩

/-- Settles O52, by a full chunk left or less: in the second case the tail may be empty. -/
theorem sendingPeripheralSendsOneChunk : Obligations.SendingPeripheralSendsOneChunk := by
  intro s rx answer sent hstate hanswer hsent
  have hanswer' : answer = pingAnswer rx s := hanswer
  have hsent' : sent = nextChunk s := hsent
  have hunsent : s.unsent = s.p.outLen.toNat - s.p.sendCursor.toNat := rfl
  rw [hanswer', hsent', ← hunsent]
  by_cases hfull : 32 ≤ s.unsent
  case pos =>
    have hexec := exec_pUpdate_chunk rx hstate hfull
    refine ⟨_, hexec, by simp, by simp, ?advanced, by simp, exec_pUpdate_controllerSide hexec⟩
    rw [if_pos hfull]
    exact ⟨by simp, .outbuf_of (by simp) (by simp)⟩
  case neg =>
    have hexec := exec_pUpdate_rest rx hstate (Nat.lt_of_not_le hfull)
    refine ⟨_, hexec, by simp, by simp, ?released, by simp, exec_pUpdate_controllerSide hexec⟩
    rw [if_neg hfull]
    simp

/-! ### A whole transfer -/

section
variable {s₀ s : State} {payload : List Byte} {n : Nat}

/-- The definition takes the first poll off a run; this takes off the last. -/
theorem peripheralPolls_succ_last (n : Nat) (s : State) :
    peripheralPolls (n + 1) s = andThen (peripheralPolls n s) (exec (.pUpdate [])) := by
  induction n generalizing s with
  | zero =>
    rw [peripheralPolls, peripheralPolls, andThen]
    cases exec (.pUpdate []) s <;> rfl
  | succ n ih =>
    rw [peripheralPolls, peripheralPolls]
    cases exec (.pUpdate []) s with
    | next t => exact ih t
    | fault f => rfl
    | refused r => rfl

/-- A transfer under way that `s₀` begins, after `n` polls: each has sent a full chunk. -/
structure Streaming (s₀ : State) (payload : List Byte) (n : Nat) (s : State) : Prop where
  state : s.p.state = .sendingData
  size : s.p.outLen.toNat = payload.length
  cursor : s.p.sendCursor.toNat = 32 * n
  stored : s.bytesFrom .outbuf 0 payload.length = payload
  port : s.bus.pRx = []
  wire : s.bus.p2cWire = s₀.bus.p2cWire ++ payload.take (32 * n)
  controller : ControllerSide s₀ s

/-- The bytes from the send cursor on are those of the payload that are not on the wire yet. -/
theorem Streaming.unsentBytes (h : Streaming s₀ payload n s) {k : Nat}
    (hk : 32 * n + k ≤ payload.length) :
    s.bytesFrom .outbuf s.p.sendCursor.toNat k = (payload.drop (32 * n)).take k := by
  have hsplit : payload.take (32 * n + k) =
      s.bytesFrom .outbuf 0 (32 * n) ++ s.bytesFrom .outbuf (32 * n) k := by
    rw [← h.stored, bytesFrom_take _ _ _ _ _ hk, bytesFrom_add, Nat.zero_add]
  rw [h.cursor, List.take_drop, hsplit, List.drop_left' (bytesFrom_length _ _ _ _)]

theorem Streaming.unsent_eq (h : Streaming s₀ payload n s) :
    s.unsent = payload.length - 32 * n := by
  rw [State.unsent, h.size, h.cursor]

/-- A poll with nothing at the port answers no Ping. -/
theorem Streaming.no_answer (h : Streaming s₀ payload n s) : pingAnswer [] s = [] := by
  rw [pingAnswer, pulledByPeripheral, h.port, if_neg (by simp)]

/-- The next poll of a transfer with a full chunk left (R198). -/
theorem Streaming.poll_chunk (h : Streaming s₀ payload n s)
    (hfull : 32 * n + 32 ≤ payload.length) :
    ∃ t, exec (.pUpdate []) s = .next t ∧ Streaming s₀ payload (n + 1) t := by
  have hunsent : 32 ≤ s.unsent := by rw [h.unsent_eq]; omega
  have hexec := exec_pUpdate_chunk [] h.state hunsent
  have hchunk : nextChunk s = (payload.drop (32 * n)).take 32 := by
    rw [nextChunk, Nat.min_eq_left hunsent]
    exact h.unsentBytes hfull
  have hcursor : (s.p.sendCursor + 32#16).toNat = 32 * (n + 1) := by
    have hsize := h.size
    have hlt := s.p.outLen.isLt
    rw [BitVec.toNat_add, h.cursor, BitVec.toNat_ofNat]
    omega
  exact ⟨_, hexec,
    { state := by simpa using h.state
      size := by simpa using h.size
      cursor := by simpa using hcursor
      stored := by rw [bytesFrom_outbuf_congr (s := s) _ _ (by simp) (by simp), h.stored]
      port := by simp [drainedPeripheralBus]
      wire := by
        rw [Nat.mul_succ, List.take_add, ← List.append_assoc, ← h.wire, ← hchunk]
        simp [h.no_answer]
      controller := h.controller.trans (exec_pUpdate_controllerSide hexec) }⟩

/-- The poll that finds less than a chunk left sends it and releases the payload (R199, R200). -/
theorem Streaming.poll_rest (h : Streaming s₀ payload n s) (hsent : 32 * n ≤ payload.length)
    (hrest : payload.length < 32 * n + 32) :
    ∃ t, exec (.pUpdate []) s = .next t ∧ t.p.state = .idle ∧
      t.bus.p2cWire = s₀.bus.p2cWire ++ payload ∧ ControllerSide s₀ t := by
  have hunsent : s.unsent < 32 := by rw [h.unsent_eq]; omega
  have hexec := exec_pUpdate_rest [] h.state hunsent
  have hchunk : nextChunk s = payload.drop (32 * n) := by
    rw [nextChunk, Nat.min_eq_right hunsent.le, h.unsentBytes (by rw [h.unsent_eq]; omega),
      h.unsent_eq, List.take_of_length_le (by simp)]
  refine ⟨_, hexec, rfl, ?wire, h.controller.trans (exec_pUpdate_controllerSide hexec)⟩
  rw [releaseOutbuf_bus, sendNonempty_bus, pingPhase_bus, h.no_answer, hchunk, List.append_nil,
    h.wire, List.append_assoc, List.take_append_drop]

/-- As long as full chunks are left, each poll sends one. -/
theorem Streaming.polls (h : Streaming s₀ payload 0 s) (n : Nat)
    (hfull : 32 * n ≤ payload.length) :
    ∃ t, peripheralPolls n s = .next t ∧ Streaming s₀ payload n t := by
  induction n with
  | zero => exact ⟨s, rfl, h⟩
  | succ n ih =>
    obtain ⟨t, hpolls, ht⟩ := ih (by omega)
    obtain ⟨u, hexec, hu⟩ := ht.poll_chunk (by omega)
    exact ⟨u, by rw [peripheralPolls_succ_last, hpolls, andThen, hexec], hu⟩

end

/-- Settles O53: the request event of O48, the polls that send a full chunk, and the one that sends
the rest. -/
theorem peripheralStreamsExactlyItsPayload : Obligations.PeripheralStreamsExactlyItsPayload := by
  intro s payload hstate hport hmax
  obtain ⟨t, hrequest, hsending, hsize, hcursor, hstored, -, -, -, hbus, -, hside⟩ :=
    requestEventBeginsATransfer s payload payload.length hstate hmax (Nat.le_refl _)
  rw [List.take_length] at hstored hbus
  have hstart : Streaming t payload 0 t :=
    ⟨hsending, hsize, by rw [hcursor]; rfl, hstored, by rw [hbus]; exact hport, by simp,
      .of rfl rfl rfl rfl⟩
  obtain ⟨v, hpolls, hv⟩ := hstart.polls (payload.length / 32) (by omega)
  obtain ⟨u, hlast, hidle, hwire, hside'⟩ := hv.poll_rest (by omega) (by omega)
  refine ⟨t, u, hrequest, ?polls, hidle, ?wire, hside.trans hside', ?earlier⟩
  case polls => rw [peripheralPolls_succ_last, hpolls, andThen, hlast]
  case wire =>
    rw [hwire, hbus]
    rfl
  case earlier =>
    intro n hn
    obtain ⟨w, hpolls, hw⟩ := hstart.polls n (by omega)
    exact ⟨w, hpolls, hw.state, hw.cursor⟩

/-- Settles O49: while sending, the event leaves everything but the outputs. -/
theorem requestEventIsIgnoredWhileSending : Obligations.RequestEventIsIgnoredWhileSending :=
  fun s bytes n hstate =>
    ⟨_, exec_pOnRequest_sendingData bytes n hstate, rfl, rfl, onlyOutputs_returning s .none⟩

/-- Settles O50: the refused results are the complement of the provider's domain. -/
theorem providerOutsideItsDomainIsRefused : Obligations.ProviderOutsideItsDomainIsRefused := by
  intro s bytes n hstate houtside
  exact exec_pOnRequest_outsideDomain hstate (by omega)

end Sys2Proof.Machine

/-! Proofs of O19 to O24 and O46. Each host operation has one equation; its registers are read off
the right-hand side, and its frame is that of the kind of operation: a read changes only the
outputs, a write of a controller register outside `RXBUF` leaves every other part of the machine,
and a construction leaves the other agent. -/

namespace Sys2Proof.Machine

section
variable {i : Instr} {s : State}

/-! ### Constructions -/

theorem exec_cNew (s : State) : exec .cNew s = .next (resetController s.start) := rfl

theorem exec_pNew (ty : Word32) (v : Word16) (s : State) :
    exec (.pNew ty v) s = .next (registerHandler (resetPeripheral ty v s.start)) := rfl

/-! ### Writes of one controller register -/

theorem exec_cRequestData_of_none (cb : Handle) (hpending : s.c.pendingReceiver = none) :
    exec (.cRequestData cb) s = .next (setPending (some cb) s.start) := by
  simp only [exec, execCRequestData, hpending]

theorem exec_cRequestData_of_pending (cb : Handle) {cb' : Handle}
    (hpending : s.c.pendingReceiver = some cb') :
    exec (.cRequestData cb) s = .refused .requestPending := by
  simp only [exec, execCRequestData, hpending]

theorem exec_cSetTimeoutPeriod (d : Word32) (s : State) :
    exec (.cSetTimeoutPeriod d) s = .next (setTimeoutPeriod d s.start) := rfl

/-- An operation that only writes controller registers outside `RXBUF` leaves the transport and
every buffer byte, and emits and returns nothing. -/
theorem exists_next_of_registerWrite {c : Ctrl}
    (hexec : exec i s = .next { s.start with c := c }) (hrxbuf : c.rxbuf = s.c.rxbuf) :
    ∃ t, exec i s = .next t ∧ t.c = c ∧ t.bus = s.bus ∧ t.out = [] ∧ t.ret = .none ∧
      t.free = s.free ∧ SameBytes .rxbuf s t ∧ PeripheralSide s t :=
  ⟨_, hexec, rfl, rfl, rfl, rfl, rfl, .rxbuf_of hrxbuf rfl, .of rfl rfl rfl rfl⟩

/-! ### Reads of one controller register -/

theorem exec_cConnected (s : State) :
    exec .cConnected s = .next (s.start.returning (.bool s.c.connected)) := rfl

theorem exec_cGetState (s : State) :
    exec .cGetState s = .next (s.start.returning (.ctrlState s.c.state)) := rfl

theorem exec_cDeviceType (s : State) :
    exec .cDeviceType s = .next (s.start.returning (.word32 s.c.deviceType)) := rfl

theorem exec_cDeviceVersion (s : State) :
    exec .cDeviceVersion s = .next (s.start.returning (.word16 s.c.deviceVersion)) := rfl

theorem exists_next_of_read {r : Ret} (hexec : exec i s = .next (s.start.returning r)) :
    ∃ t, exec i s = .next t ∧ t.ret = r ∧ t.out = [] ∧ OnlyOutputs s t :=
  ⟨_, hexec, rfl, rfl, onlyOutputs_returning s r⟩

end

/-! ### The obligations -/

/-- Settles O19: the registers are those of `Ctrl.reset`, and the peripheral's side is kept because
`C.NEW` is no operation of the peripheral. -/
theorem constructionResetsTheController : Obligations.ConstructionResetsTheController := by
  intro s
  have hside := exec_peripheralSide (by simp [agentOf]) (exec_cNew s)
  exact ⟨_, exec_cNew s, resetController_c s.start, rfl, rfl, rfl, hside⟩

/-- Settles O20: with no request pending the operation is a write of one register. -/
theorem requestDataSetsThePendingReceiver : Obligations.RequestDataSetsThePendingReceiver :=
  fun _ cb hpending => exists_next_of_registerWrite (exec_cRequestData_of_none cb hpending) rfl

/-- Settles O21: the pending request, whatever its handle, decides the branch. -/
theorem secondRequestIsRefused : Obligations.SecondRequestIsRefused :=
  fun _ cb _ hpending => exec_cRequestData_of_pending cb hpending

/-- Settles O22: the operation is a write of one register, with no condition on the value. -/
theorem setTimeoutPeriodWritesOneRegister : Obligations.SetTimeoutPeriodWritesOneRegister :=
  fun s d => exists_next_of_registerWrite (exec_cSetTimeoutPeriod d s) rfl

/-- Settles O23, as a read of one register. -/
theorem connectedReadsTheFlag : Obligations.ConnectedReadsTheFlag :=
  fun s => exists_next_of_read (exec_cConnected s)

/-- Settles O24: three reads of one register, and the table of the state numbers. -/
theorem statusReadsReturnTheRegisters : Obligations.StatusReadsReturnTheRegisters := by
  refine ⟨fun s => ⟨?state, ?type, ?version⟩, ?numbers⟩
  case state => exact exists_next_of_read (exec_cGetState s)
  case type => exact exists_next_of_read (exec_cDeviceType s)
  case version => exact exists_next_of_read (exec_cDeviceVersion s)
  case numbers => decide

/-- Settles O46: the registers are those of `Periph.reset`, and the controller's side is kept
because `P.NEW` is no operation of the controller. -/
theorem constructionResetsThePeripheral : Obligations.ConstructionResetsThePeripheral := by
  intro s ty v
  have hside := exec_controllerSide (by simp [agentOf]) (exec_pNew ty v s)
  exact ⟨_, exec_pNew ty v s, resetPeripheral_p s.start ty v, rfl, rfl, rfl, hside⟩

end Sys2Proof.Machine
